-- ==== Sys2Proof/Word.lean ====
section
/-! DEFINITION. The word types of the machine (spec/00_scope.md R3, R4). Bit 0 is the least significant
bit; the unsigned reading `u(v)` of the spec is `BitVec.toNat`, the signed reading `s(v)` is `BitVec.toInt`. -/

namespace Sys2Proof

/-- A register value, an argument field, an immediate or one byte of the program image: `XLEN` = 8 bits (R3). -/
abbrev Byte := BitVec 8

/-- An instruction word: `ILEN` = 32 bits (R3, R60). -/
abbrev Word := BitVec 32

/-- A value of the program counter: `PC_WIDTH` = 8 bits, the index of an instruction word (R12). -/
abbrev Pc := BitVec 8

end Sys2Proof
end

