-- ==== Sys2Proof/Config.lean ====
section
/-! DEFINITION. The nine implementation parameters of spec/00_scope.md R3 and the free values of
spec/40_execution_model.md R97. A free value is an opaque constant applied to the number of its draw:
nothing in Lean can evaluate it, so a claim proved over the model holds for every draw. `IMEM_INIT` is one
too, applied to the address: it is the same at every fetch of a run. -/

namespace Sys2Proof

/-- The three settings of the parameter `HC_DECODE` (R64): what a first byte of 0xE1 or 0xF1 means. -/
inductive HcDecode where
  /-- the default: the word is refused with `AmbiguousCondition` -/
  | refuse
  /-- the condition is P (0xE1) or NP (0xF1), the supergroup 1 -/
  | fieldLayout
  /-- the condition is HC (0xE1) or NHC (0xF1), the supergroup 1 -/
  | hcAsPrinted
deriving DecidableEq, Repr

/-- `XLEN`: width of AL, BL, CL and DL in bits (R3). -/
def Config.xlen : Nat := 8

/-- `ILEN`: width of an instruction in bits (R3). -/
def Config.ilen : Nat := 32

/-- `PC_WIDTH`: width of the program counter in bits (R3, decision D1). -/
def Config.pcWidth : Nat := 8

/-- `PC_INC`: what one instruction that does not jump adds to the PC (R3, decision D2). -/
def Config.pcInc : Pc := 1#8

/-- `IMEM_WORDS`: the number of instruction words the PC can reach (R3, R40, decision D3). -/
def Config.imemWords : Nat := 256

/-- The bytes of the instruction memory: four for each word (R41, R60). -/
def Config.imemBytes : Nat := 4 * Config.imemWords

/-- `RESET_PC`: the PC after reset and the word where the program begins (R3, decision D4). -/
def Config.resetPc : Pc := 0#8

/-- `IMEM_INIT` outside the loaded program: the value of every byte of the instruction memory that nothing has loaded, by byte
address (R3, R27, R44, R45). The spec gives it any value, fixed at launch; so nothing can evaluate it (decision D3, log 6). -/
opaque Config.imemInit : Nat → Byte

/-- The values of `RESET_REGS` (R3, R27): what each register and flag holds after reset. -/
structure ResetRegs where
  al : Byte
  bl : Byte
  cl : Byte
  dl : Byte
  cf : Bool
  pf : Bool
  vf : Bool
  af : Bool
  zf : Bool
  sf : Bool
  ir : Word
  rl : Byte
  rh : Byte
  clock : Nat
deriving DecidableEq, Repr

/-- `RESET_REGS` of the machine's own reset state: any value in the spec (R27, decision D5), 0 here (log 1, 2 and 3). -/
def Config.resetRegs : ResetRegs :=
  { al := 0#8, bl := 0#8, cl := 0#8, dl := 0#8, cf := false, pf := false, vf := false, af := false, zf := false,
    sf := false, ir := 0#32, rl := 0#8, rh := 0#8, clock := 0 }

/-- The machine's setting of `HC_DECODE`: the spec's default (R64, decision D6). -/
def Config.hcDecode : HcDecode := .refuse

/-- The free value of CF at a draw (R97). -/
opaque Config.anyCf : Nat → Bool

/-- The free value of PF at a draw (R97). -/
opaque Config.anyPf : Nat → Bool

/-- The free value of VF at a draw (R97). -/
opaque Config.anyVf : Nat → Bool

/-- The free value of AF at a draw (R97). -/
opaque Config.anyAf : Nat → Bool

/-- The free value of ZF at a draw (R97). -/
opaque Config.anyZf : Nat → Bool

/-- The free value of SF at a draw (R97). -/
opaque Config.anySf : Nat → Bool

/-- The free value of a general-purpose register at a draw (R97). -/
opaque Config.anyByte : Nat → Byte

/-- The free value of the PC at a draw (R97, R121). -/
opaque Config.anyPc : Nat → Pc

/-- The free value of the clock counter at a draw: how it counts is not stated (R24). -/
opaque Config.anyClock : Nat → Nat

end Sys2Proof
end

