-- ==== Sys2Proof/Syntax.lean ====
section
/-! DEFINITION. The instructions as syntax: one constructor for each row of spec/opcode_table.json
(spec/30_encoding.md R66), each with its execution condition (R60), its registers and its immediate
or label (R67 to R69). Unused argument bytes are no part of an instruction (R70). -/

namespace Sys2Proof

/-- The four general-purpose registers (R10, R11). -/
inductive Reg where
  | al
  | bl
  | cl
  | dl
deriving DecidableEq, Repr

/-- The nineteen execution conditions of R63, under their first names. -/
inductive Cond where
  /-- None, op-code 0x00 -/
  | none
  /-- Z / E, op-code 0x08 -/
  | z
  /-- NZ / NE, op-code 0x10 -/
  | nz
  /-- S, op-code 0x20 -/
  | s
  /-- NS, op-code 0x30 -/
  | ns
  /-- G / NLE, op-code 0x40 -/
  | g
  /-- GE / NL, op-code 0x50 -/
  | ge
  /-- L / NGE, op-code 0x60 -/
  | l
  /-- LE / NG, op-code 0x70 -/
  | le
  /-- A / NBE, op-code 0x80 -/
  | a
  /-- NC / AE / NB, op-code 0x90 -/
  | nc
  /-- C / B / NAE, op-code 0xA0 -/
  | c
  /-- BE / NA, op-code 0xB0 -/
  | be
  /-- V, op-code 0xC0 -/
  | v
  /-- NV, op-code 0xD0 -/
  | nv
  /-- P, op-code 0xE0 -/
  | p
  /-- NP, op-code 0xF0 -/
  | np
  /-- HC, op-code 0xE1 -/
  | hc
  /-- NHC, op-code 0xF1 -/
  | nhc
deriving DecidableEq, Repr

/-- The five operand formats of R67. -/
inductive Format where
  /-- no operand -/
  | n
  /-- a label in `ARG1` -/
  | l
  /-- a register code in `ARG1` -/
  | r
  /-- a register code in `ARG1`, an immediate in `ARG2` -/
  | ri
  /-- register codes in `ARG1` and `ARG2` -/
  | rr
deriving DecidableEq, Repr

/-- The 39 instructions (R66). `cc` is the execution condition; `d` is the register of `ARG1`, `r` that
of `ARG2`, `v` the immediate of `ARG2`, `label` the label of `ARG1`. -/
inductive Instr where
  /-- `NOP` (R120) -/
  | nop (cc : Cond)
  /-- `HLT` (R121) -/
  | hlt (cc : Cond)
  /-- `JMP Label` (R122) -/
  | jmpLabel (cc : Cond) (label : Pc)
  /-- `JMP REG` (R123) -/
  | jmpReg (cc : Cond) (d : Reg)
  /-- `MOV REG, IMM` (R124) -/
  | movRI (cc : Cond) (d : Reg) (v : Byte)
  /-- `MOV REG, REG` (R125) -/
  | movRR (cc : Cond) (d r : Reg)
  /-- `MUL REG, REG` (R126) -/
  | mulRR (cc : Cond) (d r : Reg)
  /-- `DIV REG, REG` (R127) -/
  | divRR (cc : Cond) (d r : Reg)
  /-- `AND REG, REG` (R140) -/
  | andRR (cc : Cond) (d r : Reg)
  /-- `ANDN REG, REG` (R141) -/
  | andnRR (cc : Cond) (d r : Reg)
  /-- `OR REG, REG` (R142) -/
  | orRR (cc : Cond) (d r : Reg)
  /-- `NOR REG, REG` (R143) -/
  | norRR (cc : Cond) (d r : Reg)
  /-- `XOR REG, REG` (R144) -/
  | xorRR (cc : Cond) (d r : Reg)
  /-- `XNOR REG, REG` (R145) -/
  | xnorRR (cc : Cond) (d r : Reg)
  /-- `ADD REG, REG` (R146) -/
  | addRR (cc : Cond) (d r : Reg)
  /-- `SUB REG, REG` (R147) -/
  | subRR (cc : Cond) (d r : Reg)
  /-- `CMP REG, IMM` (R148) -/
  | cmpRI (cc : Cond) (d : Reg) (v : Byte)
  /-- `CMP REG, REG` (R149) -/
  | cmpRR (cc : Cond) (d r : Reg)
  /-- `TEST REG, IMM` (R150) -/
  | testRI (cc : Cond) (d : Reg) (v : Byte)
  /-- `TEST REG, REG` (R151) -/
  | testRR (cc : Cond) (d r : Reg)
  /-- `SHR REG, REG` (R152) -/
  | shrRR (cc : Cond) (d r : Reg)
  /-- `SHL REG, REG` (R153) -/
  | shlRR (cc : Cond) (d r : Reg)
  /-- `SAR REG, REG` (R154) -/
  | sarRR (cc : Cond) (d r : Reg)
  /-- `AND REG, IMM` (R170) -/
  | andRI (cc : Cond) (d : Reg) (v : Byte)
  /-- `ANDN REG, IMM` (R171) -/
  | andnRI (cc : Cond) (d : Reg) (v : Byte)
  /-- `OR REG, IMM` (R172) -/
  | orRI (cc : Cond) (d : Reg) (v : Byte)
  /-- `NOR REG, IMM` (R173) -/
  | norRI (cc : Cond) (d : Reg) (v : Byte)
  /-- `XOR REG, IMM` (R174) -/
  | xorRI (cc : Cond) (d : Reg) (v : Byte)
  /-- `XNOR REG, IMM` (R175) -/
  | xnorRI (cc : Cond) (d : Reg) (v : Byte)
  /-- `ADD REG, IMM` (R176) -/
  | addRI (cc : Cond) (d : Reg) (v : Byte)
  /-- `SUB REG, IMM` (R177) -/
  | subRI (cc : Cond) (d : Reg) (v : Byte)
  /-- `NOT REG` (R178) -/
  | notR (cc : Cond) (d : Reg)
  /-- `NEG REG` (R179) -/
  | negR (cc : Cond) (d : Reg)
  /-- `INC REG` (R180) -/
  | incR (cc : Cond) (d : Reg)
  /-- `DEC REG` (R181) -/
  | decR (cc : Cond) (d : Reg)
  /-- `SHR REG, IMM` (R182) -/
  | shrRI (cc : Cond) (d : Reg) (v : Byte)
  /-- `SHL REG, IMM` (R183) -/
  | shlRI (cc : Cond) (d : Reg) (v : Byte)
  /-- `SAR REG, IMM` (R184) -/
  | sarRI (cc : Cond) (d : Reg) (v : Byte)
  /-- `MIRROR REG` (R185) -/
  | mirrorR (cc : Cond) (d : Reg)
deriving DecidableEq, Repr

/-- The execution condition of an instruction (field `COND`, R60). -/
def Instr.cond : Instr → Cond
  | .nop cc => cc
  | .hlt cc => cc
  | .jmpLabel cc _ => cc
  | .jmpReg cc _ => cc
  | .movRI cc _ _ => cc
  | .movRR cc _ _ => cc
  | .mulRR cc _ _ => cc
  | .divRR cc _ _ => cc
  | .andRR cc _ _ => cc
  | .andnRR cc _ _ => cc
  | .orRR cc _ _ => cc
  | .norRR cc _ _ => cc
  | .xorRR cc _ _ => cc
  | .xnorRR cc _ _ => cc
  | .addRR cc _ _ => cc
  | .subRR cc _ _ => cc
  | .cmpRI cc _ _ => cc
  | .cmpRR cc _ _ => cc
  | .testRI cc _ _ => cc
  | .testRR cc _ _ => cc
  | .shrRR cc _ _ => cc
  | .shlRR cc _ _ => cc
  | .sarRR cc _ _ => cc
  | .andRI cc _ _ => cc
  | .andnRI cc _ _ => cc
  | .orRI cc _ _ => cc
  | .norRI cc _ _ => cc
  | .xorRI cc _ _ => cc
  | .xnorRI cc _ _ => cc
  | .addRI cc _ _ => cc
  | .subRI cc _ _ => cc
  | .notR cc _ => cc
  | .negR cc _ => cc
  | .incR cc _ => cc
  | .decR cc _ => cc
  | .shrRI cc _ _ => cc
  | .shlRI cc _ _ => cc
  | .sarRI cc _ _ => cc
  | .mirrorR cc _ => cc

/-- The operand format of an instruction (R67). -/
def Instr.format : Instr → Format
  | .nop _ => .n
  | .hlt _ => .n
  | .jmpLabel _ _ => .l
  | .jmpReg _ _ => .r
  | .movRI _ _ _ => .ri
  | .movRR _ _ _ => .rr
  | .mulRR _ _ _ => .rr
  | .divRR _ _ _ => .rr
  | .andRR _ _ _ => .rr
  | .andnRR _ _ _ => .rr
  | .orRR _ _ _ => .rr
  | .norRR _ _ _ => .rr
  | .xorRR _ _ _ => .rr
  | .xnorRR _ _ _ => .rr
  | .addRR _ _ _ => .rr
  | .subRR _ _ _ => .rr
  | .cmpRI _ _ _ => .ri
  | .cmpRR _ _ _ => .rr
  | .testRI _ _ _ => .ri
  | .testRR _ _ _ => .rr
  | .shrRR _ _ _ => .rr
  | .shlRR _ _ _ => .rr
  | .sarRR _ _ _ => .rr
  | .andRI _ _ _ => .ri
  | .andnRI _ _ _ => .ri
  | .orRI _ _ _ => .ri
  | .norRI _ _ _ => .ri
  | .xorRI _ _ _ => .ri
  | .xnorRI _ _ _ => .ri
  | .addRI _ _ _ => .ri
  | .subRI _ _ _ => .ri
  | .notR _ _ => .r
  | .negR _ _ => .r
  | .incR _ _ => .r
  | .decR _ _ => .r
  | .shrRI _ _ _ => .ri
  | .shlRI _ _ _ => .ri
  | .sarRI _ _ _ => .ri
  | .mirrorR _ _ => .r

/-- Whether an instruction is of supergroup 1, "CMP, TEST, and ALU instructions" (R62, R66). -/
def Instr.isAlu : Instr → Bool
  | .nop _ => false
  | .hlt _ => false
  | .jmpLabel _ _ => false
  | .jmpReg _ _ => false
  | .movRI _ _ _ => false
  | .movRR _ _ _ => false
  | .mulRR _ _ _ => false
  | .divRR _ _ _ => false
  | .andRR _ _ _ => true
  | .andnRR _ _ _ => true
  | .orRR _ _ _ => true
  | .norRR _ _ _ => true
  | .xorRR _ _ _ => true
  | .xnorRR _ _ _ => true
  | .addRR _ _ _ => true
  | .subRR _ _ _ => true
  | .cmpRI _ _ _ => true
  | .cmpRR _ _ _ => true
  | .testRI _ _ _ => true
  | .testRR _ _ _ => true
  | .shrRR _ _ _ => true
  | .shlRR _ _ _ => true
  | .sarRR _ _ _ => true
  | .andRI _ _ _ => true
  | .andnRI _ _ _ => true
  | .orRI _ _ _ => true
  | .norRI _ _ _ => true
  | .xorRI _ _ _ => true
  | .xnorRI _ _ _ => true
  | .addRI _ _ _ => true
  | .subRI _ _ _ => true
  | .notR _ _ => true
  | .negR _ _ => true
  | .incR _ _ => true
  | .decR _ _ => true
  | .shrRI _ _ _ => true
  | .shlRI _ _ _ => true
  | .sarRI _ _ _ => true
  | .mirrorR _ _ => true

/-- E, a second name of Z (R76). -/
abbrev Cond.e : Cond := .z

/-- NE, a second name of NZ (R76). -/
abbrev Cond.ne : Cond := .nz

/-- NLE, a second name of G (R76). -/
abbrev Cond.nle : Cond := .g

/-- NL, a second name of GE (R76). -/
abbrev Cond.nl : Cond := .ge

/-- NGE, a second name of L (R76). -/
abbrev Cond.nge : Cond := .l

/-- NG, a second name of LE (R76). -/
abbrev Cond.ng : Cond := .le

/-- NBE, a second name of A (R76). -/
abbrev Cond.nbe : Cond := .a

/-- AE, a second name of NC (R76). -/
abbrev Cond.ae : Cond := .nc

/-- NB, a second name of NC (R76). -/
abbrev Cond.nb : Cond := .nc

/-- B, a second name of C (R76). -/
abbrev Cond.b : Cond := .c

/-- NAE, a second name of C (R76). -/
abbrev Cond.nae : Cond := .c

/-- NA, a second name of BE (R76). -/
abbrev Cond.na : Cond := .be

/-- SAL, a second name of SHL with two registers (R76). -/
abbrev Instr.salRR (cc : Cond) (d r : Reg) : Instr := .shlRR cc d r

/-- SAL, a second name of SHL with an immediate (R76). -/
abbrev Instr.salRI (cc : Cond) (d : Reg) (v : Byte) : Instr := .shlRI cc d v

/-- NAND, a second name of ANDN with two registers (R76). -/
abbrev Instr.nandRR (cc : Cond) (d r : Reg) : Instr := .andnRR cc d r

/-- NAND, a second name of ANDN with an immediate (R76). -/
abbrev Instr.nandRI (cc : Cond) (d : Reg) (v : Byte) : Instr := .andnRI cc d v

end Sys2Proof
end

