-- ==== Sys2Proof/Machine/State.lean ====
section
/-! DEFINITION. The state of the machine (spec/10_state.md, spec/20_memory.md R40), the reasons a step can
stop (spec/60_exceptions.md R201), and the state after reset (R27, R220). -/

namespace Sys2Proof.Machine

open Sys2Proof

/-- The six flags of the FLAGS register (R14); its bits 6 and 7 are no state. -/
structure Flags where
  /-- carry (R15), bit 0 of FLAGS -/
  cf : Bool
  /-- parity (R16), bit 1 -/
  pf : Bool
  /-- overflow (R17), bit 2 -/
  vf : Bool
  /-- auxiliary carry (R18), bit 3 -/
  af : Bool
  /-- zero (R19), bit 4 -/
  zf : Bool
  /-- sign (R19), bit 5 -/
  sf : Bool
deriving DecidableEq, Repr

/-- What has been loaded into the instruction memory, as (byte address, byte) pairs, addresses strictly rising; word `a`
of `IMem` is the bytes 4a to 4a+3 (R40, R41). A byte that is not listed has its launch value `Config.imemInit` (log 6). -/
abbrev Memory := List Host.Cell

/-- Everything the spec gives the machine, and the model's own `draws`. -/
structure State where
  /-- AL (R10) -/
  al : Byte
  /-- BL (R10) -/
  bl : Byte
  /-- CL (R10) -/
  cl : Byte
  /-- DL (R10) -/
  dl : Byte
  /-- the program counter (R12) -/
  pc : Pc
  /-- the FLAGS register (R14) -/
  flags : Flags
  /-- the halt state (R20) -/
  halted : Bool
  /-- the instruction register (R21) -/
  ir : Word
  /-- RL (R22) -/
  rl : Byte
  /-- RH (R23) -/
  rh : Byte
  /-- the clock counter, of a width the spec does not give (R24) -/
  clock : Nat
  /-- what has been loaded into the instruction memory `IMem` (R40) -/
  imem : Memory
  /-- the model's own: the number of the next draw of a free value (R97, log 5) -/
  draws : Nat
deriving DecidableEq, Repr

/-- The named stop that is no refusal of R201. -/
inductive Fault where
  /-- Raised by the step of a halted machine: no step is enabled (R20, R121). A stuck state. Safe: the model
  stops where the hardware takes no step either. -/
  | halted
deriving DecidableEq, Repr

/-- The refusals: outcomes of the model, not of the hardware (R201). All are safe: the model admits no run. -/
inductive Refusal where
  /-- Raised by an arm of `exec` whose instruction has no meaning yet; no arm does. Safe. -/
  | notModelled (mnemonic : String)
  /-- Raised by the step when the word has an invalid `COND`, `SG`, `SUB` or `FN` (R71 cases 1, 3 to 7). Safe. -/
  | invalidEncoding
  /-- Raised by the step when the first byte is 0xE1 or 0xF1 and `HC_DECODE` is `refuse` (R64, R71 case 2). Safe. -/
  | ambiguousCondition
  /-- Raised by the step when a register code the format uses is above 3 (R73). Safe. -/
  | invalidRegister
  /-- Raised by DIV when its condition holds and its second register is 0x00 (R127). Safe. -/
  | divideByZero
deriving DecidableEq, Repr

/-- The outcome of a step or of a meaning. -/
abbrev Result := Host.Outcome State Fault Refusal

/-- The machine right after reset with `r` as `RESET_REGS` (R3, R27, R220): pc and `halted` as the spec decides, nothing loaded
yet, so that every byte of memory has its launch value; the first draw is number 0 (log 5). -/
def State.resetWith (r : ResetRegs) : State :=
  { al := r.al, bl := r.bl, cl := r.cl, dl := r.dl, pc := Config.resetPc,
    flags := { cf := r.cf, pf := r.pf, vf := r.vf, af := r.af, zf := r.zf, sf := r.sf }, halted := false,
    ir := r.ir, rl := r.rl, rh := r.rh, clock := r.clock, imem := [], draws := 0 }

/-- The machine right after reset, every value the spec leaves unspecified the one `Config.resetRegs` names (log 1, 2 and 3). -/
def State.reset : State := State.resetWith Config.resetRegs

end Sys2Proof.Machine
end

