-- ==== Sys2Proof/Machine/Flags.lean ====
section
/-! DEFINITION. The results and flags of the shared ALU functions (spec/40_execution_model.md R98 to R106),
and the layout of FLAGS (spec/10_state.md R14). A function with a free flag takes the number `k` of the draw. -/

namespace Sys2Proof.Machine

open Sys2Proof

/-- `zf(r)` (R105). -/
def zeroFlag (r : Byte) : Bool := r == 0#8

/-- `sf(r)`: bit 7 (R105). -/
def signFlag (r : Byte) : Bool := r.getLsbD 7

/-- `pf(r)`: an even number of 1 bits among all eight (R105). -/
def parityFlag (r : Byte) : Bool :=
  !(r.getLsbD 0 ^^ r.getLsbD 1 ^^ r.getLsbD 2 ^^ r.getLsbD 3 ^^ r.getLsbD 4 ^^ r.getLsbD 5 ^^ r.getLsbD 6 ^^ r.getLsbD 7)

/-- `v[3:0]`, read unsigned (R98, R99). -/
def lowNibble (v : Byte) : Nat := v.toNat % 16

/-- `add8(a, b)` (R98): CF and AF are carries, VF by the sign bits. -/
def add8 (a b : Byte) : Byte × Flags :=
  let r := BitVec.ofNat 8 (a.toNat + b.toNat)
  (r,
    { cf := decide (a.toNat + b.toNat > 255)
      pf := parityFlag r
      vf := a.getLsbD 7 == b.getLsbD 7 && r.getLsbD 7 != a.getLsbD 7
      af := decide (lowNibble a + lowNibble b > 15)
      zf := zeroFlag r
      sf := signFlag r })

/-- `sub8(a, b)` (R99): CF and AF are borrows, VF by the sign bits. -/
def sub8 (a b : Byte) : Byte × Flags :=
  let r := BitVec.ofInt 8 ((a.toNat : Int) - (b.toNat : Int))
  (r,
    { cf := decide (a.toNat < b.toNat)
      pf := parityFlag r
      vf := a.getLsbD 7 != b.getLsbD 7 && r.getLsbD 7 != a.getLsbD 7
      af := decide (lowNibble a < lowNibble b)
      zf := zeroFlag r
      sf := signFlag r })

/-- The six logical operations of R100. -/
inductive LogicOp where
  | and
  | andn
  | or
  | nor
  | xor
  | xnor
deriving DecidableEq, Repr

/-- The result of a logical operation (R100); ANDN is NAND. -/
def logicResult (op : LogicOp) (a b : Byte) : Byte :=
  match op with
  | .and => a &&& b
  | .andn => ~~~(a &&& b)
  | .or => a ||| b
  | .nor => ~~~(a ||| b)
  | .xor => a ^^^ b
  | .xnor => ~~~(a ^^^ b)

/-- The flags of a logical operation with the result `r` (R100): AF is free. -/
def logicFlags (k : Nat) (r : Byte) : Flags :=
  { cf := false, pf := parityFlag r, vf := false, af := Config.anyAf k, zf := zeroFlag r, sf := signFlag r }

/-- `logic8(op, a, b)` (R100). -/
def logic8 (op : LogicOp) (k : Nat) (a b : Byte) : Byte × Flags :=
  (logicResult op a b, logicFlags k (logicResult op a b))

/-- The three shifts of R101 to R103. -/
inductive ShiftOp where
  | shr
  | shl
  | sar
deriving DecidableEq, Repr

/-- The result of `shr8`, `shl8` or `sar8` by a count `n` of 1 to 7 (R101 to R103); for `n` = 0 it is `a` (R104). -/
def shiftResult (op : ShiftOp) (a : Byte) (n : Nat) : Byte :=
  match op with
  | .shr => BitVec.ofNat 8 (a.toNat / 2 ^ n)
  | .shl => BitVec.ofNat 8 (a.toNat * 2 ^ n)
  | .sar => BitVec.ofInt 8 (a.toInt / 2 ^ n)

/-- The last bit shifted out by a count `n` of 1 to 7 (R101 to R103). -/
def shiftCarry (op : ShiftOp) (a : Byte) (n : Nat) : Bool :=
  match op with
  | .shr => a.getLsbD (n - 1)
  | .shl => a.getLsbD (8 - n)
  | .sar => a.getLsbD (n - 1)

/-- Six free flags (R97). -/
def anyFlags (k : Nat) : Flags :=
  { cf := Config.anyCf k, pf := Config.anyPf k, vf := Config.anyVf k, af := Config.anyAf k, zf := Config.anyZf k,
    sf := Config.anySf k }

/-- A shift by the whole unsigned count `n`: 1 to 7 by R101 to R103; 0 and 8 to 255 by R104. -/
def shift8 (op : ShiftOp) (k : Nat) (a n : Byte) : Byte × Flags :=
  let r := shiftResult op a n.toNat
  let f : Flags :=
    { cf := shiftCarry op a n.toNat, pf := parityFlag r, vf := Config.anyVf k, af := Config.anyAf k,
      zf := zeroFlag r, sf := signFlag r }
  if n.toNat = 0 then (a, { f with cf := Config.anyCf k, pf := parityFlag a, zf := zeroFlag a, sf := signFlag a })
  else if n.toNat < 8 then (r, f)
  else (Config.anyByte k, anyFlags k)

/-- `mirror8(a)`: bit i of the result is bit 7-i of the operand (R106). -/
def mirror8 (a : Byte) : Byte := BitVec.ofFnLE (fun i : Fin 8 => a.getLsbD (7 - i.val))

/-- The flags of MUL and DIV (R126, R127): CF says whether the high part is not 0, the others are free. -/
def highPartFlags (k : Nat) (high : Byte) : Flags := { anyFlags k with cf := high != 0#8 }

/-- `new` but for CF, which keeps its old value: INC and DEC (R180, R181). -/
def keepCarry (old new : Flags) : Flags := { new with cf := old.cf }

/-- The six valid bits of the FLAGS register in their layout, CF the least significant (R14). -/
def Flags.bits (f : Flags) : BitVec 6 :=
  BitVec.ofBool f.sf ++ BitVec.ofBool f.zf ++ BitVec.ofBool f.af ++ BitVec.ofBool f.vf ++ BitVec.ofBool f.pf ++
    BitVec.ofBool f.cf

end Sys2Proof.Machine
end

