-- ==== Sys2Proof/WellFormed.lean ====
section
/-! DEFINITION. Which instructions have an encoding under a setting of `HC_DECODE` (spec/30_encoding.md
R64): registers, immediates and labels are typed, so the condition is all there is to check. -/

namespace Sys2Proof

/-- Whether a condition can be encoded on an instruction of supergroup 1 (`alu`) or 0 under the setting `h`,
by the table of R64. -/
def condEncodable (h : HcDecode) (alu : Bool) (cc : Cond) : Bool :=
  match cc with
  | .hc | .nhc => h == .hcAsPrinted && alu
  | .p | .np => h == .fieldLayout || !alu
  | _ => true

/-- An instruction is well formed under the setting `h` when its condition can be encoded on it (R64). -/
def Instr.wellFormed (h : HcDecode) (i : Instr) : Bool :=
  condEncodable h i.isAlu i.cond

end Sys2Proof
end

