-- ==== Sys2Proof/Decode.lean ====
section
/-! DEFINITION. Decoding a 32-bit word to an instruction or a named error, total on every word, and the
encoder, both from the tables of spec/30_encoding.md (R60 to R73). The decoder takes the setting of
`HC_DECODE` as an argument; the machine's own decoder has the setting of `Config`. -/

namespace Sys2Proof

/-- Why a word is no instruction, in the order of the checks (R205): each reason is a refusal of R201. -/
inductive DecodeError where
  /-- the first byte is 0xE1 or 0xF1 and `HC_DECODE` is `refuse` (R64, R71 case 2) -/
  | ambiguousCondition
  /-- an invalid `COND`, `SG`, `SUB` or `FN` (R71 cases 1, 3 to 7) -/
  | invalidEncoding
  /-- a register code above 3 in a field the format uses (R73) -/
  | invalidRegister
deriving DecidableEq, Repr

/-- The first byte of the instruction, bits 31 to 24 (R60). -/
def byte0 (w : Word) : Byte := w.extractLsb' 24 8

/-- The second byte of the instruction, bits 23 to 16: `SUB` and `FN` (R60, R65). -/
def byte1 (w : Word) : Byte := w.extractLsb' 16 8

/-- `ARG1`, the third byte, bits 15 to 8 (R60). -/
def byte2 (w : Word) : Byte := w.extractLsb' 8 8

/-- `ARG2`, the fourth byte, bits 7 to 0 (R60). -/
def byte3 (w : Word) : Byte := w.extractLsb' 0 8

/-- Four bytes as one word, the first byte leftmost (R41). -/
def joinBytes (b0 b1 b2 b3 : Byte) : Word := b0 ++ b1 ++ b2 ++ b3

/-- `COND`, the upper five bits of the first byte (R60). -/
def condField (b0 : Byte) : BitVec 5 := b0.extractLsb' 3 5

/-- `SG`, the lower three bits of the first byte (R60). -/
def supergroupField (b0 : Byte) : BitVec 3 := b0.extractLsb' 0 3

/-- The register a code names; the codes 0x04 to 0xFF name none (R11, R73). -/
def decodeReg (b : Byte) : Except DecodeError Reg :=
  match b with
  | 0x00#8 => .ok .al
  | 0x01#8 => .ok .bl
  | 0x02#8 => .ok .cl
  | 0x03#8 => .ok .dl
  | _ => .error .invalidRegister

/-- The operand of format R (R67). -/
def decodeR (a1 : Byte) (mk : Reg → Instr) : Except DecodeError Instr :=
  match decodeReg a1 with
  | .error e => .error e
  | .ok d => .ok (mk d)

/-- The operands of format RI (R67): the immediate is `ARG2` as it stands (R68). -/
def decodeRI (a1 a2 : Byte) (mk : Reg → Byte → Instr) : Except DecodeError Instr :=
  match decodeReg a1 with
  | .error e => .error e
  | .ok d => .ok (mk d a2)

/-- The operands of format RR (R67). -/
def decodeRR (a1 a2 : Byte) (mk : Reg → Reg → Instr) : Except DecodeError Instr :=
  match decodeReg a1 with
  | .error e => .error e
  | .ok d =>
    match decodeReg a2 with
    | .error e => .error e
    | .ok r => .ok (mk d r)

/-- The condition of a value of `COND`: seventeen are valid (R63). -/
def decodeCondField (x : BitVec 5) : Except DecodeError Cond :=
  match x with
  | 0#5 => .ok .none
  | 1#5 => .ok .z
  | 2#5 => .ok .nz
  | 4#5 => .ok .s
  | 6#5 => .ok .ns
  | 8#5 => .ok .g
  | 10#5 => .ok .ge
  | 12#5 => .ok .l
  | 14#5 => .ok .le
  | 16#5 => .ok .a
  | 18#5 => .ok .nc
  | 20#5 => .ok .c
  | 22#5 => .ok .be
  | 24#5 => .ok .v
  | 26#5 => .ok .nv
  | 28#5 => .ok .p
  | 30#5 => .ok .np
  | _ => .error .invalidEncoding

/-- The condition of a first byte under the setting `h`: 0xE1 and 0xF1 by the table of R64, every
other byte by its field `COND`. -/
def decodeCond (h : HcDecode) (b0 : Byte) : Except DecodeError Cond :=
  if b0 = 0xE1#8 then
    match h with
    | .refuse => .error .ambiguousCondition
    | .fieldLayout => .ok .p
    | .hcAsPrinted => .ok .hc
  else if b0 = 0xF1#8 then
    match h with
    | .refuse => .error .ambiguousCondition
    | .fieldLayout => .ok .np
    | .hcAsPrinted => .ok .nhc
  else decodeCondField (condField b0)

/-- Supergroup 0 by its second byte (R66); every byte not listed is invalid (R71 cases 4 and 5). -/
def decodeBasic (cc : Cond) (b1 a1 a2 : Byte) : Except DecodeError Instr :=
  match b1 with
  | 0x00#8 => .ok (.nop cc)
  | 0x01#8 => .ok (.hlt cc)
  | 0x02#8 => .ok (.jmpLabel cc a1)
  | 0x03#8 => decodeR a1 (.jmpReg cc)
  | 0x04#8 => decodeRI a1 a2 (.movRI cc)
  | 0x05#8 => decodeRR a1 a2 (.movRR cc)
  | 0x06#8 => decodeRR a1 a2 (.mulRR cc)
  | 0x07#8 => decodeRR a1 a2 (.divRR cc)
  | _ => .error .invalidEncoding

/-- Supergroup 1 by its second byte (R66); every byte not listed is invalid (R71 cases 6 and 7). -/
def decodeAlu (cc : Cond) (b1 a1 a2 : Byte) : Except DecodeError Instr :=
  match b1 with
  | 0x00#8 => decodeRR a1 a2 (.andRR cc)
  | 0x01#8 => decodeRR a1 a2 (.andnRR cc)
  | 0x02#8 => decodeRR a1 a2 (.orRR cc)
  | 0x03#8 => decodeRR a1 a2 (.norRR cc)
  | 0x04#8 => decodeRR a1 a2 (.xorRR cc)
  | 0x05#8 => decodeRR a1 a2 (.xnorRR cc)
  | 0x06#8 => decodeRR a1 a2 (.addRR cc)
  | 0x07#8 => decodeRR a1 a2 (.subRR cc)
  | 0x08#8 => decodeRI a1 a2 (.cmpRI cc)
  | 0x09#8 => decodeRR a1 a2 (.cmpRR cc)
  | 0x0A#8 => decodeRI a1 a2 (.testRI cc)
  | 0x0B#8 => decodeRR a1 a2 (.testRR cc)
  | 0x0C#8 => decodeRR a1 a2 (.shrRR cc)
  | 0x0D#8 => decodeRR a1 a2 (.shlRR cc)
  | 0x0E#8 => decodeRR a1 a2 (.sarRR cc)
  | 0x10#8 => decodeRI a1 a2 (.andRI cc)
  | 0x11#8 => decodeRI a1 a2 (.andnRI cc)
  | 0x12#8 => decodeRI a1 a2 (.orRI cc)
  | 0x13#8 => decodeRI a1 a2 (.norRI cc)
  | 0x14#8 => decodeRI a1 a2 (.xorRI cc)
  | 0x15#8 => decodeRI a1 a2 (.xnorRI cc)
  | 0x16#8 => decodeRI a1 a2 (.addRI cc)
  | 0x17#8 => decodeRI a1 a2 (.subRI cc)
  | 0x18#8 => decodeR a1 (.notR cc)
  | 0x19#8 => decodeR a1 (.negR cc)
  | 0x1A#8 => decodeR a1 (.incR cc)
  | 0x1B#8 => decodeR a1 (.decR cc)
  | 0x1C#8 => decodeRI a1 a2 (.shrRI cc)
  | 0x1D#8 => decodeRI a1 a2 (.shlRI cc)
  | 0x1E#8 => decodeRI a1 a2 (.sarRI cc)
  | 0x1F#8 => decodeR a1 (.mirrorR cc)
  | _ => .error .invalidEncoding

/-- The instruction of a supergroup, second byte and arguments; supergroups 2 to 7 are invalid (R62, R71 case 3). -/
def decodeOperation (cc : Cond) (sg : BitVec 3) (b1 a1 a2 : Byte) : Except DecodeError Instr :=
  match sg with
  | 0#3 => decodeBasic cc b1 a1 a2
  | 1#3 => decodeAlu cc b1 a1 a2
  | _ => .error .invalidEncoding

/-- The instruction of four bytes under the setting `h`: the first byte's condition, then the operation,
then its register codes (R205). -/
def decodeFields (h : HcDecode) (b0 b1 a1 a2 : Byte) : Except DecodeError Instr :=
  match decodeCond h b0 with
  | .error e => .error e
  | .ok cc => decodeOperation cc (supergroupField b0) b1 a1 a2

/-- The instruction of a word under the setting `h` of `HC_DECODE` (R60, R64). -/
def decodeWordUnder (h : HcDecode) (w : Word) : Except DecodeError Instr :=
  decodeFields h (byte0 w) (byte1 w) (byte2 w) (byte3 w)

/-- The machine's decoder. -/
def decodeWord (w : Word) : Except DecodeError Instr := decodeWordUnder Config.hcDecode w

/-- The instruction the machine's decoder reads from an instruction whose bits are `w`, numbered as
spec/opcode_table.json numbers them; bits from `nbits` on are 0. -/
def decodeTableWord (nbits w : Nat) : Option Instr :=
  match decodeWord (BitVec.ofNat 32 (w % 2 ^ nbits)) with
  | .ok i => some i
  | .error _ => none

/-- The op-code of a condition, a value of the whole first byte (R63). -/
def Cond.opcode : Cond → Byte
  | .none => 0x00#8
  | .z => 0x08#8
  | .nz => 0x10#8
  | .s => 0x20#8
  | .ns => 0x30#8
  | .g => 0x40#8
  | .ge => 0x50#8
  | .l => 0x60#8
  | .le => 0x70#8
  | .a => 0x80#8
  | .nc => 0x90#8
  | .c => 0xA0#8
  | .be => 0xB0#8
  | .v => 0xC0#8
  | .nv => 0xD0#8
  | .p => 0xE0#8
  | .np => 0xF0#8
  | .hc => 0xE1#8
  | .nhc => 0xF1#8

/-- The code of a register (R11). -/
def Reg.code : Reg → Byte
  | .al => 0x00#8
  | .bl => 0x01#8
  | .cl => 0x02#8
  | .dl => 0x03#8

/-- `SG` of an instruction (R66). -/
def Instr.supergroup : Instr → BitVec 3
  | .nop _ => 0#3
  | .hlt _ => 0#3
  | .jmpLabel _ _ => 0#3
  | .jmpReg _ _ => 0#3
  | .movRI _ _ _ => 0#3
  | .movRR _ _ _ => 0#3
  | .mulRR _ _ _ => 0#3
  | .divRR _ _ _ => 0#3
  | .andRR _ _ _ => 1#3
  | .andnRR _ _ _ => 1#3
  | .orRR _ _ _ => 1#3
  | .norRR _ _ _ => 1#3
  | .xorRR _ _ _ => 1#3
  | .xnorRR _ _ _ => 1#3
  | .addRR _ _ _ => 1#3
  | .subRR _ _ _ => 1#3
  | .cmpRI _ _ _ => 1#3
  | .cmpRR _ _ _ => 1#3
  | .testRI _ _ _ => 1#3
  | .testRR _ _ _ => 1#3
  | .shrRR _ _ _ => 1#3
  | .shlRR _ _ _ => 1#3
  | .sarRR _ _ _ => 1#3
  | .andRI _ _ _ => 1#3
  | .andnRI _ _ _ => 1#3
  | .orRI _ _ _ => 1#3
  | .norRI _ _ _ => 1#3
  | .xorRI _ _ _ => 1#3
  | .xnorRI _ _ _ => 1#3
  | .addRI _ _ _ => 1#3
  | .subRI _ _ _ => 1#3
  | .notR _ _ => 1#3
  | .negR _ _ => 1#3
  | .incR _ _ => 1#3
  | .decR _ _ => 1#3
  | .shrRI _ _ _ => 1#3
  | .shlRI _ _ _ => 1#3
  | .sarRI _ _ _ => 1#3
  | .mirrorR _ _ => 1#3

/-- The second byte of an instruction, `SUB` and `FN` together (R65, R66). -/
def Instr.opcode : Instr → Byte
  | .nop _ => 0x00#8
  | .hlt _ => 0x01#8
  | .jmpLabel _ _ => 0x02#8
  | .jmpReg _ _ => 0x03#8
  | .movRI _ _ _ => 0x04#8
  | .movRR _ _ _ => 0x05#8
  | .mulRR _ _ _ => 0x06#8
  | .divRR _ _ _ => 0x07#8
  | .andRR _ _ _ => 0x00#8
  | .andnRR _ _ _ => 0x01#8
  | .orRR _ _ _ => 0x02#8
  | .norRR _ _ _ => 0x03#8
  | .xorRR _ _ _ => 0x04#8
  | .xnorRR _ _ _ => 0x05#8
  | .addRR _ _ _ => 0x06#8
  | .subRR _ _ _ => 0x07#8
  | .cmpRI _ _ _ => 0x08#8
  | .cmpRR _ _ _ => 0x09#8
  | .testRI _ _ _ => 0x0A#8
  | .testRR _ _ _ => 0x0B#8
  | .shrRR _ _ _ => 0x0C#8
  | .shlRR _ _ _ => 0x0D#8
  | .sarRR _ _ _ => 0x0E#8
  | .andRI _ _ _ => 0x10#8
  | .andnRI _ _ _ => 0x11#8
  | .orRI _ _ _ => 0x12#8
  | .norRI _ _ _ => 0x13#8
  | .xorRI _ _ _ => 0x14#8
  | .xnorRI _ _ _ => 0x15#8
  | .addRI _ _ _ => 0x16#8
  | .subRI _ _ _ => 0x17#8
  | .notR _ _ => 0x18#8
  | .negR _ _ => 0x19#8
  | .incR _ _ => 0x1A#8
  | .decR _ _ => 0x1B#8
  | .shrRI _ _ _ => 0x1C#8
  | .shlRI _ _ _ => 0x1D#8
  | .sarRI _ _ _ => 0x1E#8
  | .mirrorR _ _ => 0x1F#8

/-- `ARG1` of an instruction, 0x00 where its format does not use it (R67, R70). -/
def Instr.arg1 : Instr → Byte
  | .nop _ => 0x00#8
  | .hlt _ => 0x00#8
  | .jmpLabel _ label => label
  | .jmpReg _ d => d.code
  | .movRI _ d _ => d.code
  | .movRR _ d _ => d.code
  | .mulRR _ d _ => d.code
  | .divRR _ d _ => d.code
  | .andRR _ d _ => d.code
  | .andnRR _ d _ => d.code
  | .orRR _ d _ => d.code
  | .norRR _ d _ => d.code
  | .xorRR _ d _ => d.code
  | .xnorRR _ d _ => d.code
  | .addRR _ d _ => d.code
  | .subRR _ d _ => d.code
  | .cmpRI _ d _ => d.code
  | .cmpRR _ d _ => d.code
  | .testRI _ d _ => d.code
  | .testRR _ d _ => d.code
  | .shrRR _ d _ => d.code
  | .shlRR _ d _ => d.code
  | .sarRR _ d _ => d.code
  | .andRI _ d _ => d.code
  | .andnRI _ d _ => d.code
  | .orRI _ d _ => d.code
  | .norRI _ d _ => d.code
  | .xorRI _ d _ => d.code
  | .xnorRI _ d _ => d.code
  | .addRI _ d _ => d.code
  | .subRI _ d _ => d.code
  | .notR _ d => d.code
  | .negR _ d => d.code
  | .incR _ d => d.code
  | .decR _ d => d.code
  | .shrRI _ d _ => d.code
  | .shlRI _ d _ => d.code
  | .sarRI _ d _ => d.code
  | .mirrorR _ d => d.code

/-- `ARG2` of an instruction, 0x00 where its format does not use it (R67, R70). -/
def Instr.arg2 : Instr → Byte
  | .nop _ => 0x00#8
  | .hlt _ => 0x00#8
  | .jmpLabel _ _ => 0x00#8
  | .jmpReg _ _ => 0x00#8
  | .movRI _ _ v => v
  | .movRR _ _ r => r.code
  | .mulRR _ _ r => r.code
  | .divRR _ _ r => r.code
  | .andRR _ _ r => r.code
  | .andnRR _ _ r => r.code
  | .orRR _ _ r => r.code
  | .norRR _ _ r => r.code
  | .xorRR _ _ r => r.code
  | .xnorRR _ _ r => r.code
  | .addRR _ _ r => r.code
  | .subRR _ _ r => r.code
  | .cmpRI _ _ v => v
  | .cmpRR _ _ r => r.code
  | .testRI _ _ v => v
  | .testRR _ _ r => r.code
  | .shrRR _ _ r => r.code
  | .shlRR _ _ r => r.code
  | .sarRR _ _ r => r.code
  | .andRI _ _ v => v
  | .andnRI _ _ v => v
  | .orRI _ _ v => v
  | .norRI _ _ v => v
  | .xorRI _ _ v => v
  | .xnorRI _ _ v => v
  | .addRI _ _ v => v
  | .subRI _ _ v => v
  | .notR _ _ => 0x00#8
  | .negR _ _ => 0x00#8
  | .incR _ _ => 0x00#8
  | .decR _ _ => 0x00#8
  | .shrRI _ _ v => v
  | .shlRI _ _ v => v
  | .sarRI _ _ v => v
  | .mirrorR _ _ => 0x00#8

/-- The first byte of an instruction: its condition's op-code OR its supergroup (R61). -/
def Instr.firstByte (i : Instr) : Byte := i.cond.opcode ||| i.supergroup.setWidth 8

/-- The word of an instruction (R60, R61, R65, R67). -/
def encode (i : Instr) : Word := joinBytes i.firstByte i.opcode i.arg1 i.arg2

end Sys2Proof
end

