-- ==== Sys2Proof/Machine/Ops.lean ====
section
/-! DEFINITION. The named operations over memory, registers, flags, the program counter and the draws of free
values. The machine has no exception and no trap (spec/60_exceptions.md R200): there is no entry that saves
a pc or a status and no return from one, so no operation here takes an exception. -/

namespace Sys2Proof.Machine

open Sys2Proof

/-- The byte that has been loaded at an address, if any (R41, R44). -/
def Memory.read : Memory → Nat → Option Byte
  | [], _ => none
  | (k, b) :: m, a => if k = a then some b else Memory.read m a

/-- The memory with the byte at an address replaced, in its place by address. -/
def Memory.insert : Memory → Nat → Byte → Memory
  | [], a, b => [(a, b)]
  | (k, c) :: m, a, b =>
    if a < k then (a, b) :: (k, c) :: m
    else if a = k then (a, b) :: m
    else (k, c) :: Memory.insert m a b

/-- A write of one byte by the host's loader (R209, R221). An address past the instruction memory (R40) names
no byte, and nothing is written. -/
def Memory.write (m : Memory) (a : Nat) (b : Byte) : Memory :=
  if a < Config.imemBytes then Memory.insert m a b else m

/-- The canonical form of what has been loaded: addresses strictly rising, each inside the instruction memory. -/
abbrev Memory.wf (m : Memory) : Prop :=
  m.Pairwise (fun x y => x.1 < y.1) ∧ ∀ x ∈ m, x.1 < Config.imemBytes

/-- The byte address of the first byte of an instruction word (R41). -/
def wordAddress (p : Pc) : Nat := 4 * p.toNat

/-- One byte of the instruction memory: the one loaded there, else its launch value (`IMEM_INIT`, R44, R45). -/
def Memory.byteAt (m : Memory) (a : Nat) : Byte := (Memory.read m a).getD (Config.imemInit a)

/-- `IMem[p]`: four bytes, the one at the lowest address leftmost (R41). -/
def Memory.readWord (m : Memory) (p : Pc) : Word :=
  joinBytes (Memory.byteAt m (wordAddress p)) (Memory.byteAt m (wordAddress p + 1))
    (Memory.byteAt m (wordAddress p + 2)) (Memory.byteAt m (wordAddress p + 3))

/-- The bytes of a program image written from an address on (R41). -/
def Memory.load : Memory → Nat → List Byte → Memory
  | m, _, [] => m
  | m, a, b :: bs => Memory.load (Memory.write m a b) (a + 1) bs

/-- A word stored where `IMem[p]` is read, the leftmost byte at the lowest address (R41). -/
def Memory.writeWord (m : Memory) (p : Pc) (w : Word) : Memory :=
  Memory.load m (wordAddress p) [byte0 w, byte1 w, byte2 w, byte3 w]

/-- The host's load of a program image from word `RESET_PC` on (R41, R209, R221); an image that does not fit
the instruction memory cannot be loaded. -/
def State.loadProgram (image : List Byte) (s : State) : Option State :=
  if wordAddress Config.resetPc + image.length ≤ Config.imemBytes then
    some { s with imem := Memory.load s.imem (wordAddress Config.resetPc) image }
  else none

/-- `x[i]`: read a general-purpose register (R5, R10). -/
def State.reg (s : State) : Reg → Byte
  | .al => s.al
  | .bl => s.bl
  | .cl => s.cl
  | .dl => s.dl

/-- `x[i] <- v`: write a general-purpose register (R5, R10). -/
def State.setReg (s : State) (d : Reg) (v : Byte) : State :=
  match d with
  | .al => { s with al := v }
  | .bl => { s with bl := v }
  | .cl => { s with cl := v }
  | .dl => { s with dl := v }

/-- All six flags replaced. -/
def State.setFlags (s : State) (f : Flags) : State := { s with flags := f }

/-- `pc <- t` (R5). -/
def State.setPc (s : State) (t : Pc) : State := { s with pc := t }

/-- The PC moves to the next instruction, modulo 256 (R12, R13, R90). -/
def State.advance (s : State) : State := { s with pc := s.pc + Config.pcInc }

/-- RL takes a value (R22). -/
def State.setRl (s : State) (v : Byte) : State := { s with rl := v }

/-- RH takes a value (R23). -/
def State.setRh (s : State) (v : Byte) : State := { s with rh := v }

/-- The halt state is entered (R20, R121). -/
def State.setHalted (s : State) : State := { s with halted := true }

/-- The draw numbered `draws` is used up: the next free value is another one (R97). -/
def State.drawn (s : State) : State := { s with draws := s.draws + 1 }

/-- `I <- IMem[pc]` (R42, R90). -/
def State.fetch (s : State) : Word := Memory.readWord s.imem s.pc

/-- What the fetch of a word leaves in the state (R90): IR holds the word (R21) and the clock counter has moved on,
to a value the spec does not state (R24, R97). -/
def State.fetched (s : State) (w : Word) : State :=
  { s with ir := w, clock := Config.anyClock s.draws, draws := s.draws + 1 }

/-- The refusal each decoding error stands for (R201). -/
def refusalOf : DecodeError → Refusal
  | .ambiguousCondition => .ambiguousCondition
  | .invalidEncoding => .invalidEncoding
  | .invalidRegister => .invalidRegister

end Sys2Proof.Machine
end

