-- ==== Sys2Proof/Machine/Operands.lean ====
section
/-! DEFINITION. The execution condition (spec/40_execution_model.md R92) and the operand forms of spec/30_encoding.md
R67 as whole-state operations: each reads its operands before it writes anything (R94) and ends with the PC
at the next instruction (R90). -/

namespace Sys2Proof.Machine

open Sys2Proof

/-- `cond_holds` on the flags as they are before the instruction (R92). -/
def condHolds (cc : Cond) (f : Flags) : Bool :=
  match cc with
  | .none => true
  | .z => f.zf
  | .nz => !f.zf
  | .s => f.sf
  | .ns => !f.sf
  | .g => !(f.zf || (f.sf ^^ f.vf))
  | .ge => !(f.sf ^^ f.vf)
  | .l => f.sf ^^ f.vf
  | .le => f.zf || (f.sf ^^ f.vf)
  | .a => !(f.zf || f.cf)
  | .nc => !f.cf
  | .c => f.cf
  | .be => f.zf || f.cf
  | .v => f.vf
  | .nv => !f.vf
  | .p => f.pf
  | .np => !f.pf
  | .hc => f.af
  | .nhc => !f.af

/-- Every instruction is conditional (R90): if its condition holds it does what its rule says, if not only the PC
advances (R91). -/
def conditional (cc : Cond) (s : State) (rule : State → Result) : Result :=
  if condHolds cc s.flags then rule s else .next s.advance

/-- Format RR of supergroup 1 with a destination: RL takes the first register's value (R22), the result and the flags
of `f` are written. -/
def aluRegReg (f : Byte → Byte → Byte × Flags) (d r : Reg) (s : State) : State :=
  let res := f (s.reg d) (s.reg r)
  (((s.setRl (s.reg d)).setReg d res.1).setFlags res.2).advance

/-- Format RR of supergroup 1 without a destination (CMP, TEST): the result is discarded. -/
def compareRegReg (f : Byte → Byte → Byte × Flags) (d r : Reg) (s : State) : State :=
  ((s.setRl (s.reg d)).setFlags (f (s.reg d) (s.reg r)).2).advance

/-- Format RI of supergroup 1 with a destination; RL is not used (R148). -/
def aluRegImm (f : Byte → Byte → Byte × Flags) (d : Reg) (v : Byte) (s : State) : State :=
  let res := f (s.reg d) v
  ((s.setReg d res.1).setFlags res.2).advance

/-- Format RI of supergroup 1 without a destination (CMP, TEST): the result is discarded. -/
def compareRegImm (f : Byte → Byte → Byte × Flags) (d : Reg) (v : Byte) (s : State) : State :=
  (s.setFlags (f (s.reg d) v).2).advance

/-- Format R of supergroup 1: the register is replaced, `f` gives its new value and the flags. -/
def aluReg (f : Byte → Byte × Flags) (d : Reg) (s : State) : State :=
  let res := f (s.reg d)
  ((s.setReg d res.1).setFlags res.2).advance

/-- The two results of MUL and DIV (R126, R127): the low part to the first register, the high part to the second, or a
free value where both are one register; CF from the high part, the other flags free; RL and RH hold the parts. -/
def lowHigh (low high : Byte) (d r : Reg) (s : State) : State :=
  let t := if d = r then s.setReg d (Config.anyByte s.draws) else (s.setReg d low).setReg r high
  (((t.setFlags (highPartFlags s.draws high)).setRl low).setRh high).drawn.advance

end Sys2Proof.Machine
end

