-- ==== Sys2Proof/Machine/AluImm.lean ====
section
/-! DEFINITION. Supergroup 1 subgroup 1: ALU instructions with an immediate, and the unary ones (spec/43_supergroup1_sub1_alu_imm.md R170 to R185): one meaning for each instruction. -/

namespace Sys2Proof.Machine

open Sys2Proof

/-- `AND REG, IMM` (R170). -/
def execAndRI (cc : Cond) (d : Reg) (v : Byte) (s : State) : Result :=
  conditional cc s fun s =>
    .next (aluRegImm (logic8 .and s.draws) d v s).drawn

/-- `ANDN REG, IMM` (R171): NAND. -/
def execAndnRI (cc : Cond) (d : Reg) (v : Byte) (s : State) : Result :=
  conditional cc s fun s =>
    .next (aluRegImm (logic8 .andn s.draws) d v s).drawn

/-- `OR REG, IMM` (R172). -/
def execOrRI (cc : Cond) (d : Reg) (v : Byte) (s : State) : Result :=
  conditional cc s fun s =>
    .next (aluRegImm (logic8 .or s.draws) d v s).drawn

/-- `NOR REG, IMM` (R173). -/
def execNorRI (cc : Cond) (d : Reg) (v : Byte) (s : State) : Result :=
  conditional cc s fun s =>
    .next (aluRegImm (logic8 .nor s.draws) d v s).drawn

/-- `XOR REG, IMM` (R174). -/
def execXorRI (cc : Cond) (d : Reg) (v : Byte) (s : State) : Result :=
  conditional cc s fun s =>
    .next (aluRegImm (logic8 .xor s.draws) d v s).drawn

/-- `XNOR REG, IMM` (R175). -/
def execXnorRI (cc : Cond) (d : Reg) (v : Byte) (s : State) : Result :=
  conditional cc s fun s =>
    .next (aluRegImm (logic8 .xnor s.draws) d v s).drawn

/-- `ADD REG, IMM` (R176). -/
def execAddRI (cc : Cond) (d : Reg) (v : Byte) (s : State) : Result :=
  conditional cc s fun s =>
    .next (aluRegImm add8 d v s)

/-- `SUB REG, IMM` (R177): register minus immediate. -/
def execSubRI (cc : Cond) (d : Reg) (v : Byte) (s : State) : Result :=
  conditional cc s fun s =>
    .next (aluRegImm sub8 d v s)

/-- `NOT REG` (R178): one's complement; no flag is affected. -/
def execNotR (cc : Cond) (d : Reg) (s : State) : Result :=
  conditional cc s fun s =>
    .next (s.setReg d (~~~(s.reg d))).advance

/-- `NEG REG` (R179): `sub8(0x00, a)`. -/
def execNegR (cc : Cond) (d : Reg) (s : State) : Result :=
  conditional cc s fun s =>
    .next (aluReg (sub8 0#8) d s)

/-- `INC REG` (R180): `add8(a, 0x01)` but for CF. -/
def execIncR (cc : Cond) (d : Reg) (s : State) : Result :=
  conditional cc s fun s =>
    .next (aluReg (fun a => ((add8 a 1#8).1, keepCarry s.flags (add8 a 1#8).2)) d s)

/-- `DEC REG` (R181): `sub8(a, 0x01)` but for CF. -/
def execDecR (cc : Cond) (d : Reg) (s : State) : Result :=
  conditional cc s fun s =>
    .next (aluReg (fun a => ((sub8 a 1#8).1, keepCarry s.flags (sub8 a 1#8).2)) d s)

/-- `SHR REG, IMM` (R182). -/
def execShrRI (cc : Cond) (d : Reg) (v : Byte) (s : State) : Result :=
  conditional cc s fun s =>
    .next (aluRegImm (shift8 .shr s.draws) d v s).drawn

/-- `SHL REG, IMM` (R183). -/
def execShlRI (cc : Cond) (d : Reg) (v : Byte) (s : State) : Result :=
  conditional cc s fun s =>
    .next (aluRegImm (shift8 .shl s.draws) d v s).drawn

/-- `SAR REG, IMM` (R184). -/
def execSarRI (cc : Cond) (d : Reg) (v : Byte) (s : State) : Result :=
  conditional cc s fun s =>
    .next (aluRegImm (shift8 .sar s.draws) d v s).drawn

/-- `MIRROR REG` (R185): bits reversed; all flags free. -/
def execMirrorR (cc : Cond) (d : Reg) (s : State) : Result :=
  conditional cc s fun s =>
    .next (aluReg (fun a => (mirror8 a, anyFlags s.draws)) d s).drawn

end Sys2Proof.Machine
end

