-- ==== Sys2Proof/Machine/AluReg.lean ====
section
/-! DEFINITION. Supergroup 1 subgroup 0: ALU instructions between registers, CMP and TEST (spec/42_supergroup1_sub0_alu_reg.md R140 to R154): one meaning for each instruction. -/

namespace Sys2Proof.Machine

open Sys2Proof

/-- `AND REG, REG` (R140). -/
def execAndRR (cc : Cond) (d r : Reg) (s : State) : Result :=
  conditional cc s fun s =>
    .next (aluRegReg (logic8 .and s.draws) d r s).drawn

/-- `ANDN REG, REG` (R141): NAND. -/
def execAndnRR (cc : Cond) (d r : Reg) (s : State) : Result :=
  conditional cc s fun s =>
    .next (aluRegReg (logic8 .andn s.draws) d r s).drawn

/-- `OR REG, REG` (R142). -/
def execOrRR (cc : Cond) (d r : Reg) (s : State) : Result :=
  conditional cc s fun s =>
    .next (aluRegReg (logic8 .or s.draws) d r s).drawn

/-- `NOR REG, REG` (R143). -/
def execNorRR (cc : Cond) (d r : Reg) (s : State) : Result :=
  conditional cc s fun s =>
    .next (aluRegReg (logic8 .nor s.draws) d r s).drawn

/-- `XOR REG, REG` (R144). -/
def execXorRR (cc : Cond) (d r : Reg) (s : State) : Result :=
  conditional cc s fun s =>
    .next (aluRegReg (logic8 .xor s.draws) d r s).drawn

/-- `XNOR REG, REG` (R145). -/
def execXnorRR (cc : Cond) (d r : Reg) (s : State) : Result :=
  conditional cc s fun s =>
    .next (aluRegReg (logic8 .xnor s.draws) d r s).drawn

/-- `ADD REG, REG` (R146). -/
def execAddRR (cc : Cond) (d r : Reg) (s : State) : Result :=
  conditional cc s fun s =>
    .next (aluRegReg add8 d r s)

/-- `SUB REG, REG` (R147). -/
def execSubRR (cc : Cond) (d r : Reg) (s : State) : Result :=
  conditional cc s fun s =>
    .next (aluRegReg sub8 d r s)

/-- `CMP REG, IMM` (R148): `sub8`, the result discarded. -/
def execCmpRI (cc : Cond) (d : Reg) (v : Byte) (s : State) : Result :=
  conditional cc s fun s =>
    .next (compareRegImm sub8 d v s)

/-- `CMP REG, REG` (R149): `sub8`, the result discarded. -/
def execCmpRR (cc : Cond) (d r : Reg) (s : State) : Result :=
  conditional cc s fun s =>
    .next (compareRegReg sub8 d r s)

/-- `TEST REG, IMM` (R150): AND, the result discarded. -/
def execTestRI (cc : Cond) (d : Reg) (v : Byte) (s : State) : Result :=
  conditional cc s fun s =>
    .next (compareRegImm (logic8 .and s.draws) d v s).drawn

/-- `TEST REG, REG` (R151): AND, the result discarded. -/
def execTestRR (cc : Cond) (d r : Reg) (s : State) : Result :=
  conditional cc s fun s =>
    .next (compareRegReg (logic8 .and s.draws) d r s).drawn

/-- `SHR REG, REG` (R152). -/
def execShrRR (cc : Cond) (d r : Reg) (s : State) : Result :=
  conditional cc s fun s =>
    .next (aluRegReg (shift8 .shr s.draws) d r s).drawn

/-- `SHL REG, REG` (R153). -/
def execShlRR (cc : Cond) (d r : Reg) (s : State) : Result :=
  conditional cc s fun s =>
    .next (aluRegReg (shift8 .shl s.draws) d r s).drawn

/-- `SAR REG, REG` (R154). -/
def execSarRR (cc : Cond) (d r : Reg) (s : State) : Result :=
  conditional cc s fun s =>
    .next (aluRegReg (shift8 .sar s.draws) d r s).drawn

end Sys2Proof.Machine
end

