-- ==== Sys2Proof/Machine/Basic.lean ====
section
/-! DEFINITION. Supergroup 0, basic instructions (spec/41_supergroup0_basic.md R120 to R127): one meaning for each instruction. -/

namespace Sys2Proof.Machine

open Sys2Proof

/-- `NOP` (R120). -/
def execNop (cc : Cond) (s : State) : Result :=
  conditional cc s fun s =>
    .next s.advance

/-- `HLT` (R121): the machine halts; the PC is free. -/
def execHlt (cc : Cond) (s : State) : Result :=
  conditional cc s fun s =>
    .next (s.setHalted.setPc (Config.anyPc s.draws)).drawn

/-- `JMP Label` (R122): the PC becomes the label; nothing is added to it. -/
def execJmpLabel (cc : Cond) (label : Pc) (s : State) : Result :=
  conditional cc s fun s =>
    .next (s.setPc label)

/-- `JMP REG` (R123): the PC becomes the register's value; nothing is added to it. -/
def execJmpReg (cc : Cond) (d : Reg) (s : State) : Result :=
  conditional cc s fun s =>
    .next (s.setPc (s.reg d))

/-- `MOV REG, IMM` (R124): flags unchanged. -/
def execMovRI (cc : Cond) (d : Reg) (v : Byte) (s : State) : Result :=
  conditional cc s fun s =>
    .next (s.setReg d v).advance

/-- `MOV REG, REG` (R125): flags unchanged. -/
def execMovRR (cc : Cond) (d r : Reg) (s : State) : Result :=
  conditional cc s fun s =>
    .next (s.setReg d (s.reg r)).advance

/-- `MUL REG, REG` (R126): unsigned product, low part to the first register, high part to the second. -/
def execMulRR (cc : Cond) (d r : Reg) (s : State) : Result :=
  conditional cc s fun s =>
    let p := (s.reg d).toNat * (s.reg r).toNat
    .next (lowHigh (BitVec.ofNat 8 p) (BitVec.ofNat 8 (p / 256)) d r s)

/-- `DIV REG, REG` (R127): unsigned quotient to the first register, remainder to the second; a zero divisor is refused. -/
def execDivRR (cc : Cond) (d r : Reg) (s : State) : Result :=
  conditional cc s fun s =>
    if s.reg r = 0#8 then .refused .divideByZero
    else .next (lowHigh (s.reg d / s.reg r) (s.reg d % s.reg r) d r s)

end Sys2Proof.Machine
end

