-- ==== Sys2Proof/Machine/Dispatch.lean ====
section
/-! DEFINITION. What each instruction does: one arm per constructor, each one call of its meaning (spec/30_encoding.md R66). -/

namespace Sys2Proof.Machine

open Sys2Proof

def exec (i : Instr) (s : State) : Host.Outcome State Fault Refusal :=
  match i with
  | .nop cc => Sys2Proof.Machine.execNop cc s
  | .hlt cc => Sys2Proof.Machine.execHlt cc s
  | .jmpLabel cc label => Sys2Proof.Machine.execJmpLabel cc label s
  | .jmpReg cc d => Sys2Proof.Machine.execJmpReg cc d s
  | .movRI cc d v => Sys2Proof.Machine.execMovRI cc d v s
  | .movRR cc d r => Sys2Proof.Machine.execMovRR cc d r s
  | .mulRR cc d r => Sys2Proof.Machine.execMulRR cc d r s
  | .divRR cc d r => Sys2Proof.Machine.execDivRR cc d r s
  | .andRR cc d r => Sys2Proof.Machine.execAndRR cc d r s
  | .andnRR cc d r => Sys2Proof.Machine.execAndnRR cc d r s
  | .orRR cc d r => Sys2Proof.Machine.execOrRR cc d r s
  | .norRR cc d r => Sys2Proof.Machine.execNorRR cc d r s
  | .xorRR cc d r => Sys2Proof.Machine.execXorRR cc d r s
  | .xnorRR cc d r => Sys2Proof.Machine.execXnorRR cc d r s
  | .addRR cc d r => Sys2Proof.Machine.execAddRR cc d r s
  | .subRR cc d r => Sys2Proof.Machine.execSubRR cc d r s
  | .cmpRI cc d v => Sys2Proof.Machine.execCmpRI cc d v s
  | .cmpRR cc d r => Sys2Proof.Machine.execCmpRR cc d r s
  | .testRI cc d v => Sys2Proof.Machine.execTestRI cc d v s
  | .testRR cc d r => Sys2Proof.Machine.execTestRR cc d r s
  | .shrRR cc d r => Sys2Proof.Machine.execShrRR cc d r s
  | .shlRR cc d r => Sys2Proof.Machine.execShlRR cc d r s
  | .sarRR cc d r => Sys2Proof.Machine.execSarRR cc d r s
  | .andRI cc d v => Sys2Proof.Machine.execAndRI cc d v s
  | .andnRI cc d v => Sys2Proof.Machine.execAndnRI cc d v s
  | .orRI cc d v => Sys2Proof.Machine.execOrRI cc d v s
  | .norRI cc d v => Sys2Proof.Machine.execNorRI cc d v s
  | .xorRI cc d v => Sys2Proof.Machine.execXorRI cc d v s
  | .xnorRI cc d v => Sys2Proof.Machine.execXnorRI cc d v s
  | .addRI cc d v => Sys2Proof.Machine.execAddRI cc d v s
  | .subRI cc d v => Sys2Proof.Machine.execSubRI cc d v s
  | .notR cc d => Sys2Proof.Machine.execNotR cc d s
  | .negR cc d => Sys2Proof.Machine.execNegR cc d s
  | .incR cc d => Sys2Proof.Machine.execIncR cc d s
  | .decR cc d => Sys2Proof.Machine.execDecR cc d s
  | .shrRI cc d v => Sys2Proof.Machine.execShrRI cc d v s
  | .shlRI cc d v => Sys2Proof.Machine.execShlRI cc d v s
  | .sarRI cc d v => Sys2Proof.Machine.execSarRI cc d v s
  | .mirrorR cc d => Sys2Proof.Machine.execMirrorR cc d s

end Sys2Proof.Machine
end

