-- ==== Sys2Proof/Machine/Step.lean ====
section
/-! DEFINITION. One step of the machine (spec/40_execution_model.md R90), and where the host places a word for the next step. -/

namespace Sys2Proof.Machine

open Sys2Proof

/-- One step under the setting `h` of `HC_DECODE` (R64, R90): no step while halted (R20); fetch, of a word nothing has loaded as
of any other (R42, R45); the checks of the word before its condition is looked at (R72, R73, R205); then the instruction. -/
def stepUnder (h : HcDecode) (s : State) : Host.Outcome State Fault Refusal :=
  if s.halted then .fault .halted
  else
    match decodeWordUnder h s.fetch with
    | .error e => .refused (refusalOf e)
    | .ok i => exec i (s.fetched s.fetch)

/-- One step of the machine. -/
def step (s : State) : Host.Outcome State Fault Refusal := stepUnder Config.hcDecode s

/-- The state with the instruction `w` of `nbits` bits at the word the next step fetches, and able to take that
step (R42, R90): the host's load of one word (log 7). -/
def State.withFetchWord (s : State) (nbits w : Nat) : State :=
  { s with imem := Memory.writeWord s.imem s.pc (BitVec.ofNat 32 (w % 2 ^ nbits)), halted := false }

end Sys2Proof.Machine
end

