-- ==== Sys2Proof/Machine/Timing.lean ====
section
/-! DEFINITION. The clock cycles of each instruction (spec/70_reset_and_hazards.md R225). Data only: no step depends on them. -/

namespace Sys2Proof.Machine

open Sys2Proof

/-- "# of CLK cycles" of an instruction that is executed (R225). -/
def cycles : Instr → Nat
  | .nop _ => 1
  | .hlt _ => 1
  | .jmpLabel _ _ => 1
  | .jmpReg _ _ => 1
  | .movRI _ _ _ => 1
  | .movRR _ _ _ => 1
  | .mulRR _ _ _ => 12
  | .divRR _ _ _ => 12
  | .andRR _ _ _ => 2
  | .andnRR _ _ _ => 2
  | .orRR _ _ _ => 2
  | .norRR _ _ _ => 2
  | .xorRR _ _ _ => 2
  | .xnorRR _ _ _ => 2
  | .addRR _ _ _ => 2
  | .subRR _ _ _ => 2
  | .cmpRI _ _ _ => 1
  | .cmpRR _ _ _ => 2
  | .testRI _ _ _ => 1
  | .testRR _ _ _ => 2
  | .shrRR _ _ _ => 2
  | .shlRR _ _ _ => 2
  | .sarRR _ _ _ => 2
  | .andRI _ _ _ => 1
  | .andnRI _ _ _ => 1
  | .orRI _ _ _ => 1
  | .norRI _ _ _ => 1
  | .xorRI _ _ _ => 1
  | .xnorRI _ _ _ => 1
  | .addRI _ _ _ => 1
  | .subRI _ _ _ => 1
  | .notR _ _ => 1
  | .negR _ _ => 1
  | .incR _ _ => 1
  | .decR _ _ => 1
  | .shrRI _ _ _ => 1
  | .shlRI _ _ _ => 1
  | .sarRI _ _ _ => 1
  | .mirrorR _ _ => 1

end Sys2Proof.Machine
end

