-- ==== Sys2Proof/Safety.lean ====
section
/-! DEFINITION. The terms claims are stated in: runs and their ends (spec/60_exceptions.md R201, R206), start states
(spec/10_state.md R27), what an instruction leaves alone, and the flags of a result said in numbers instead of bits
(spec/10_state.md R15 to R19). -/

namespace Sys2Proof.Machine

open Sys2Proof

/-- `t` is reached from `s` by steps of the machine (R206). -/
inductive Reaches (s : State) : State → Prop where
  | refl : Reaches s s
  | tail {t u : State} : Reaches s t → step t = .next u → Reaches s u

/-- A start of a run (R27, R220): pc and `halted` as decided, every register and flag unspecified, any bytes loaded. -/
def StartState (s : State) : Prop :=
  s.pc = Config.resetPc ∧ s.halted = false ∧ Memory.wf s.imem

/-- A run from `s` that meets no refusal: every state it reaches has halted or has a next one (R201, R206). -/
def SafeFrom (s : State) : Prop :=
  ∀ t, Reaches s t → t.halted = true ∨ ∃ u, step t = .next u

/-- Every byte of memory reads as before. -/
def MemoryKept (s t : State) : Prop :=
  ∀ a, Memory.read t.imem a = Memory.read s.imem a

/-- Every general-purpose register but those of `ds` is as before. -/
def RegsKept (ds : List Reg) (s t : State) : Prop :=
  ∀ q, q ∉ ds → t.reg q = s.reg q

/-- The frame of an instruction with the destination registers `ds`: the other registers, the memory, the halt state, IR
and the clock counter are as before. PC, flags, RL and RH are said beside it. -/
def KeptBut (ds : List Reg) (s t : State) : Prop :=
  RegsKept ds s t ∧ MemoryKept s t ∧ t.halted = s.halted ∧ t.ir = s.ir ∧ t.clock = s.clock

/-- RL and RH are as before. -/
def PartsKept (s t : State) : Prop := t.rl = s.rl ∧ t.rh = s.rh

/-- The PC is at the next instruction, modulo 256 (R90). -/
def PcNext (s t : State) : Prop := t.pc.toNat = (s.pc.toNat + 1) % 256

/-- The number of 1 bits of a result (R16). -/
def onesIn (r : Byte) : Nat := ((List.range 8).filter (fun i => r.getLsbD i)).length

/-- ZF, SF and PF are set according to the result `r` (R16, R19, R105). -/
def ResultFlags (r : Byte) (f : Flags) : Prop :=
  (f.zf = true ↔ r.toNat = 0) ∧ (f.sf = true ↔ r.toInt < 0) ∧ (f.pf = true ↔ onesIn r % 2 = 0)

/-- The flags of an addition but for CF (R16 to R19, R98): half carry, and overflow of the signed sum. -/
def AddFlagsButCarry (a b r : Byte) (f : Flags) : Prop :=
  (f.af = true ↔ a.toNat % 16 + b.toNat % 16 > 15) ∧
    (f.vf = true ↔ a.toInt + b.toInt < -128 ∨ a.toInt + b.toInt > 127) ∧ ResultFlags r f

/-- The flags of a subtraction but for CF (R16 to R19, R99): half borrow, and overflow of the signed difference. -/
def SubFlagsButCarry (a b r : Byte) (f : Flags) : Prop :=
  (f.af = true ↔ a.toNat % 16 < b.toNat % 16) ∧
    (f.vf = true ↔ a.toInt - b.toInt < -128 ∨ a.toInt - b.toInt > 127) ∧ ResultFlags r f

/-- CF is the carry of an addition (R15, R98). -/
def AddCarry (a b : Byte) (f : Flags) : Prop := f.cf = true ↔ a.toNat + b.toNat > 255

/-- CF is the borrow of a subtraction (R15, R99). -/
def SubBorrow (a b : Byte) (f : Flags) : Prop := f.cf = true ↔ a.toNat < b.toNat

/-- The flags of a logical operation but for AF, which is free (R100). -/
def LogicalFlags (r : Byte) (f : Flags) : Prop := f.cf = false ∧ f.vf = false ∧ ResultFlags r f

/-- Every bit of `r` is `op` of the same bits of `a` and `b`. -/
def Bitwise (op : Bool → Bool → Bool) (a b r : Byte) : Prop :=
  ∀ k, k < 8 → r.getLsbD k = op (a.getLsbD k) (b.getLsbD k)

/-- Format RR has the encoding `sg`, `b1`, register codes in both arguments, and takes `n` cycles; a code above 3 in either
argument is refused (R66, R67, R73, R225). -/
def CodedRR (sg : BitVec 3) (b1 : Byte) (n : Nat) (mk : Cond → Reg → Reg → Instr) : Prop :=
  (∀ cc d r, decodeOperation cc sg b1 d.code r.code = .ok (mk cc d r) ∧ cycles (mk cc d r) = n) ∧
    ∀ cc a1 a2, a1.toNat > 3 ∨ a2.toNat > 3 → decodeOperation cc sg b1 a1 a2 = .error .invalidRegister

/-- Format RI has the encoding `sg`, `b1`, a register code and any immediate, and takes `n` cycles; a code above 3 is refused. -/
def CodedRI (sg : BitVec 3) (b1 : Byte) (n : Nat) (mk : Cond → Reg → Byte → Instr) : Prop :=
  (∀ cc d v, decodeOperation cc sg b1 d.code v = .ok (mk cc d v) ∧ cycles (mk cc d v) = n) ∧
    ∀ cc a1 a2, a1.toNat > 3 → decodeOperation cc sg b1 a1 a2 = .error .invalidRegister

/-- Format R has the encoding `sg`, `b1`, a register code and an ignored argument, and takes `n` cycles; a code above 3 is refused. -/
def CodedR (sg : BitVec 3) (b1 : Byte) (n : Nat) (mk : Cond → Reg → Instr) : Prop :=
  (∀ cc d a2, decodeOperation cc sg b1 d.code a2 = .ok (mk cc d) ∧ cycles (mk cc d) = n) ∧
    ∀ cc a1 a2, a1.toNat > 3 → decodeOperation cc sg b1 a1 a2 = .error .invalidRegister

/-- The general-purpose registers an instruction writes (R11): MUL and DIV two, CMP, TEST and the instructions without a
destination none. -/
def destinations : Instr → List Reg
  | .nop _ => []
  | .hlt _ => []
  | .jmpLabel _ _ => []
  | .jmpReg _ _ => []
  | .movRI _ d _ => [d]
  | .movRR _ d _ => [d]
  | .mulRR _ d r => [d, r]
  | .divRR _ d r => [d, r]
  | .andRR _ d _ => [d]
  | .andnRR _ d _ => [d]
  | .orRR _ d _ => [d]
  | .norRR _ d _ => [d]
  | .xorRR _ d _ => [d]
  | .xnorRR _ d _ => [d]
  | .addRR _ d _ => [d]
  | .subRR _ d _ => [d]
  | .cmpRI _ _ _ => []
  | .cmpRR _ _ _ => []
  | .testRI _ _ _ => []
  | .testRR _ _ _ => []
  | .shrRR _ d _ => [d]
  | .shlRR _ d _ => [d]
  | .sarRR _ d _ => [d]
  | .andRI _ d _ => [d]
  | .andnRI _ d _ => [d]
  | .orRI _ d _ => [d]
  | .norRI _ d _ => [d]
  | .xorRI _ d _ => [d]
  | .xnorRI _ d _ => [d]
  | .addRI _ d _ => [d]
  | .subRI _ d _ => [d]
  | .notR _ d => [d]
  | .negR _ d => [d]
  | .incR _ d => [d]
  | .decR _ d => [d]
  | .shrRI _ d _ => [d]
  | .shlRI _ d _ => [d]
  | .sarRI _ d _ => [d]
  | .mirrorR _ d => [d]

/-- A logical instruction with two registers (R140 to R145): its encoding, and its effect when its condition holds. -/
def LogicRegForm (b1 : Byte) (mk : Cond → Reg → Reg → Instr) (op : Bool → Bool → Bool) : Prop :=
  CodedRR 1#3 b1 2 mk ∧
    ∀ cc d r s, condHolds cc s.flags = true →
      ∃ t, exec (mk cc d r) s = .next t ∧ Bitwise op (s.reg d) (s.reg r) (t.reg d) ∧ LogicalFlags (t.reg d) t.flags ∧
        t.rl = s.reg d ∧ t.rh = s.rh ∧ PcNext s t ∧ KeptBut [d] s t

/-- A logical instruction with an immediate (R170 to R175). -/
def LogicImmForm (b1 : Byte) (mk : Cond → Reg → Byte → Instr) (op : Bool → Bool → Bool) : Prop :=
  CodedRI 1#3 b1 1 mk ∧
    ∀ cc d v s, condHolds cc s.flags = true →
      ∃ t, exec (mk cc d v) s = .next t ∧ Bitwise op (s.reg d) v (t.reg d) ∧ LogicalFlags (t.reg d) t.flags ∧
        PartsKept s t ∧ PcNext s t ∧ KeptBut [d] s t

/-- A shift of `a` by the unsigned count `n` with the result `r` and the flags `f` (R101 to R104): `bit` gives bit `k` of the
result for a count of 1 to 7, `out` the last bit shifted out. A count of 8 or more leaves all of them free, and CF is free for a
count of 0, VF and AF always. -/
def ShiftOutcome (bit : Byte → Nat → Nat → Bool) (out : Byte → Nat → Bool) (a n r : Byte) (f : Flags) : Prop :=
  (n.toNat = 0 → r = a ∧ ResultFlags a f) ∧
    (1 ≤ n.toNat ∧ n.toNat ≤ 7 →
      (∀ k, k < 8 → r.getLsbD k = bit a n.toNat k) ∧ f.cf = out a n.toNat ∧ ResultFlags r f)

/-- A shift instruction in both forms (R152 to R154, R182 to R184). -/
def ShiftForms (b1 b1' : Byte) (mk : Cond → Reg → Reg → Instr) (mk' : Cond → Reg → Byte → Instr)
    (bit : Byte → Nat → Nat → Bool) (out : Byte → Nat → Bool) : Prop :=
  CodedRR 1#3 b1 2 mk ∧ CodedRI 1#3 b1' 1 mk' ∧
    (∀ cc d r s, condHolds cc s.flags = true →
      ∃ t, exec (mk cc d r) s = .next t ∧ ShiftOutcome bit out (s.reg d) (s.reg r) (t.reg d) t.flags ∧
        t.rl = s.reg d ∧ t.rh = s.rh ∧ PcNext s t ∧ KeptBut [d] s t) ∧
    ∀ cc d v s, condHolds cc s.flags = true →
      ∃ t, exec (mk' cc d v) s = .next t ∧ ShiftOutcome bit out (s.reg d) v (t.reg d) t.flags ∧
        PartsKept s t ∧ PcNext s t ∧ KeptBut [d] s t

/-- What the conditions mean on the flags left by a comparison of `a` with `b` (R93). -/
def ComparisonConditions (a b : Byte) (f : Flags) : Prop :=
  (condHolds .z f = true ↔ a = b) ∧ (condHolds .nz f = true ↔ a ≠ b) ∧
    (condHolds .s f = true ↔ (a - b).getLsbD 7 = true) ∧ (condHolds .ns f = true ↔ (a - b).getLsbD 7 = false) ∧
    (condHolds .g f = true ↔ a.toInt > b.toInt) ∧ (condHolds .ge f = true ↔ a.toInt ≥ b.toInt) ∧
    (condHolds .l f = true ↔ a.toInt < b.toInt) ∧ (condHolds .le f = true ↔ a.toInt ≤ b.toInt) ∧
    (condHolds .a f = true ↔ a.toNat > b.toNat) ∧ (condHolds .nc f = true ↔ a.toNat ≥ b.toNat) ∧
    (condHolds .c f = true ↔ a.toNat < b.toNat) ∧ (condHolds .be f = true ↔ a.toNat ≤ b.toNat)

/-- A value of `COND` in the table of R63: 0, 1 or even. -/
def ValidCond (b0 : Byte) : Prop := (condField b0).toNat = 1 ∨ (condField b0).toNat % 2 = 0

/-- A supergroup and second byte in the table of R66. -/
def ValidOperation (b0 b1 : Byte) : Prop :=
  ((supergroupField b0).toNat = 0 ∧ b1.toNat < 8) ∨
    ((supergroupField b0).toNat = 1 ∧ (b1.toNat < 15 ∨ (16 ≤ b1.toNat ∧ b1.toNat < 32)))

/-- The formats of R66 and R67 that hold a register code in `ARG1`. -/
def UsesFirstRegister (b0 b1 : Byte) : Prop := (supergroupField b0).toNat = 1 ∨ 3 ≤ b1.toNat

/-- The formats of R66 and R67 that hold a register code in `ARG2`. -/
def UsesSecondRegister (b0 b1 : Byte) : Prop :=
  ((supergroupField b0).toNat = 0 ∧ 5 ≤ b1.toNat) ∨
    ((supergroupField b0).toNat = 1 ∧ b1.toNat < 15 ∧ b1.toNat ≠ 8 ∧ b1.toNat ≠ 10)

/-- A register code above 3 in a field the format uses (R73). -/
def BadRegister (b0 b1 a1 a2 : Byte) : Prop :=
  (UsesFirstRegister b0 b1 ∧ a1.toNat > 3) ∨ (UsesSecondRegister b0 b1 ∧ a2.toNat > 3)

/-- Two states that agree on all a program can see, and on the free values to come: not IR, RL, RH and the clock counter
(R21 to R24). -/
def SameVisible (s t : State) : Prop :=
  (∀ q, t.reg q = s.reg q) ∧ t.pc = s.pc ∧ t.flags = s.flags ∧ t.halted = s.halted ∧ t.imem = s.imem ∧ t.draws = s.draws

/-- Two states that agree on all but AF (R18). -/
def SameButAf (s t : State) : Prop := t = { s with flags := { s.flags with af := t.flags.af } }

/-- Two outcomes that are next states related by `rel`, or one and the same stop. -/
def SameOutcome (rel : State → State → Prop) : Result → Result → Prop
  | .next s, .next t => rel s t
  | .fault x, .fault y => x = y
  | .refused x, .refused y => x = y
  | _, _ => False

end Sys2Proof.Machine
end

