-- ==== Sys2Proof/Certificates/Slice0/Obligations.lean ====
section
/-! DEFINITION. The statements for the provers. A docstring that names a decision D<n> or a log entry marks a clause that
is a choice of the spec or of the model and no rule of the source. In every statement about an instruction `condHolds cc s.flags = true`
says that its execution condition holds; what it does otherwise is `FalseConditionOnlyAdvances`. -/

open Sys2Proof Sys2Proof.Machine

/-! ### Encoding and decoding -/

/-- Decoding the encoding of a well-formed instruction gives it back, under every setting of `HC_DECODE`, for every operand. The
settings are decision D6 (log 8), zeros in unused arguments and ignoring them D9 (log 15). -/
def Obligations.DecodeOfEncode : Prop :=
  ∀ (h : HcDecode) (i : Instr), i.wellFormed h = true → decodeWordUnder h (encode i) = .ok i

/-- What the decoder accepts is well formed, and its encoding is the word but for arguments its format does not use (D6, D9; log 8, 15). -/
def Obligations.DecodedInstructionIsWellFormed : Prop :=
  ∀ (h : HcDecode) (w : Word) (i : Instr), decodeWordUnder h w = .ok i →
    i.wellFormed h = true ∧ byte0 (encode i) = byte0 w ∧ byte1 (encode i) = byte1 w ∧
      (i.format ≠ .n → byte2 (encode i) = byte2 w) ∧ (i.format = .ri ∨ i.format = .rr → byte3 (encode i) = byte3 w)

/-- An argument the format does not use is ignored: every value decodes to the same instruction (decision D9, log 15). -/
def Obligations.UnusedArgumentsAreIgnored : Prop :=
  ∀ (h : HcDecode) (w w' : Word) (i : Instr), decodeWordUnder h w = .ok i →
    byte0 w' = byte0 w → byte1 w' = byte1 w → (i.format ≠ .n → byte2 w' = byte2 w) →
    (i.format = .ri ∨ i.format = .rr → byte3 w' = byte3 w) → decodeWordUnder h w' = .ok i

/-- The first byte of an encoding is the condition's op-code OR the supergroup's, five bits and three (R61). HC and NHC are
apart: their printed op-codes reach into the supergroup's three bits (R64). -/
def Obligations.FirstByteIsConditionOrSupergroup : Prop :=
  (∀ i : Instr, byte0 (encode i) = i.cond.opcode ||| i.supergroup.setWidth 8) ∧
    ∀ i : Instr, i.cond ≠ .hc → i.cond ≠ .nhc →
      supergroupField i.cond.opcode = 0#3 ∧ condField (byte0 (encode i)) = condField i.cond.opcode ∧
        supergroupField (byte0 (encode i)) = i.supergroup

/-- The second byte is the subgroup's nibble OR the function's, the op-code of the tables, in the ranges of the tables, and
the operations that both subgroups of supergroup 1 share have the same right nibble (R65). -/
def Obligations.SecondByteIsSubgroupAndFunction : Prop :=
  (∀ i : Instr, byte1 (encode i) = i.opcode ∧
    byte1 (encode i) = ((encode i).extractLsb' 20 4).setWidth 8 <<< 4 ||| ((encode i).extractLsb' 16 4).setWidth 8 ∧
    (i.supergroup = 0#3 ∨ i.supergroup = 1#3) ∧
    (i.supergroup = 0#3 → i.opcode.toNat < 8) ∧
    (i.supergroup = 1#3 → i.opcode.toNat < 15 ∨ (16 ≤ i.opcode.toNat ∧ i.opcode.toNat < 32))) ∧
  (∀ cc d r v,
    (Instr.andRI cc d v).opcode = (Instr.andRR cc d r).opcode + 0x10#8 ∧
    (Instr.andnRI cc d v).opcode = (Instr.andnRR cc d r).opcode + 0x10#8 ∧
    (Instr.orRI cc d v).opcode = (Instr.orRR cc d r).opcode + 0x10#8 ∧
    (Instr.norRI cc d v).opcode = (Instr.norRR cc d r).opcode + 0x10#8 ∧
    (Instr.xorRI cc d v).opcode = (Instr.xorRR cc d r).opcode + 0x10#8 ∧
    (Instr.xnorRI cc d v).opcode = (Instr.xnorRR cc d r).opcode + 0x10#8 ∧
    (Instr.addRI cc d v).opcode = (Instr.addRR cc d r).opcode + 0x10#8 ∧
    (Instr.subRI cc d v).opcode = (Instr.subRR cc d r).opcode + 0x10#8 ∧
    (Instr.shrRI cc d v).opcode = (Instr.shrRR cc d r).opcode + 0x10#8 ∧
    (Instr.shlRI cc d v).opcode = (Instr.shlRR cc d r).opcode + 0x10#8 ∧
    (Instr.sarRI cc d v).opcode = (Instr.sarRR cc d r).opcode + 0x10#8)

/-- A few words of the spec's encoding table and example programs decode to the instructions they stand for. -/
def Obligations.SpecWordsDecode : Prop :=
  decodeWord 0x00060001#32 = .ok (.mulRR .none .al .bl) ∧ decodeWord 0xA0030300#32 = .ok (.jmpReg .c .dl) ∧
    decodeWord 0x60050001#32 = .ok (.movRR .l .al .bl) ∧ decodeWord 0x81070001#32 = .ok (.subRR .a .al .bl) ∧
    decodeWord 0x010A0180#32 = .ok (.testRI .none .bl 0x80#8) ∧ decodeWord 0x21190300#32 = .ok (.negR .s .dl)

/-- Which words the default decoder accepts, and which reason it gives for the others: an ambiguous first byte, then an
invalid condition or operation, then a register code above 3 (decisions D6 to D8; log 8, 11). -/
def Obligations.RefusalReasonsInOrder : Prop :=
  ∀ b0 b1 a1 a2 : Byte,
    ((b0 = 0xE1#8 ∨ b0 = 0xF1#8) → decodeFields .refuse b0 b1 a1 a2 = .error .ambiguousCondition) ∧
    (b0 ≠ 0xE1#8 → b0 ≠ 0xF1#8 → ¬(ValidCond b0 ∧ ValidOperation b0 b1) →
      decodeFields .refuse b0 b1 a1 a2 = .error .invalidEncoding) ∧
    (b0 ≠ 0xE1#8 → b0 ≠ 0xF1#8 → ValidCond b0 → ValidOperation b0 b1 → BadRegister b0 b1 a1 a2 →
      decodeFields .refuse b0 b1 a1 a2 = .error .invalidRegister) ∧
    (b0 ≠ 0xE1#8 → b0 ≠ 0xF1#8 → ValidCond b0 → ValidOperation b0 b1 → ¬BadRegister b0 b1 a1 a2 →
      ∃ i, decodeFields .refuse b0 b1 a1 a2 = .ok i)

/-- The table of R64: what a first byte of 0xE1 or 0xF1 is under each setting; 0xE0 and 0xF0 are P and NP with supergroup 0 under
every one; and the settings agree on every other first byte (decision D6, log 8). -/
def Obligations.HcDecodeSettings : Prop :=
  ∀ b1 a1 a2 : Byte,
    decodeFields .refuse 0xE1#8 b1 a1 a2 = .error .ambiguousCondition ∧
    decodeFields .refuse 0xF1#8 b1 a1 a2 = .error .ambiguousCondition ∧
    decodeFields .fieldLayout 0xE1#8 b1 a1 a2 = decodeOperation .p 1#3 b1 a1 a2 ∧
    decodeFields .fieldLayout 0xF1#8 b1 a1 a2 = decodeOperation .np 1#3 b1 a1 a2 ∧
    decodeFields .hcAsPrinted 0xE1#8 b1 a1 a2 = decodeOperation .hc 1#3 b1 a1 a2 ∧
    decodeFields .hcAsPrinted 0xF1#8 b1 a1 a2 = decodeOperation .nhc 1#3 b1 a1 a2 ∧
    ∀ h : HcDecode, decodeFields h 0xE0#8 b1 a1 a2 = decodeOperation .p 0#3 b1 a1 a2 ∧
      decodeFields h 0xF0#8 b1 a1 a2 = decodeOperation .np 0#3 b1 a1 a2 ∧
      ∀ b0, b0 ≠ 0xE1#8 → b0 ≠ 0xF1#8 → decodeFields h b0 b1 a1 a2 = decodeFields .refuse b0 b1 a1 a2

/-! ### The step, the fetch, the halt state, reset -/

/-- When the word at the PC decodes to an instruction, the step runs it on the state the fetch leaves: IR holds the word, the clock
counter has a free value, one draw is used up (R90; IR, clock and draw are the model's, log 24, 4 and 5). Bytes are read four to a
word, the first leftmost (R41); each is the one loaded there, else its launch value (decision D3, log 6). -/
def Obligations.StepRunsTheDecodedInstruction : Prop :=
  ∀ (s : State) (b0 b1 b2 b3 : Byte) (i : Instr), s.halted = false →
    Memory.byteAt s.imem (4 * s.pc.toNat) = b0 → Memory.byteAt s.imem (4 * s.pc.toNat + 1) = b1 →
    Memory.byteAt s.imem (4 * s.pc.toNat + 2) = b2 → Memory.byteAt s.imem (4 * s.pc.toNat + 3) = b3 →
    decodeWord (b0 ++ b1 ++ b2 ++ b3 : Word) = .ok i →
    step s = exec i { s with ir := b0 ++ b1 ++ b2 ++ b3, clock := Config.anyClock s.draws, draws := s.draws + 1 }

/-- A word placed where the next step fetches is what that step runs (the model's own loader, log 7). -/
def Obligations.PlacedWordIsRun : Prop :=
  ∀ (s : State) (w : Word) (i : Instr), decodeWord w = .ok i →
    step (s.withFetchWord 32 w.toNat) = exec i ((s.withFetchWord 32 w.toNat).fetched w)

/-- The k-th instruction of a loaded image is the word at index k, its first byte leftmost (R41; its start at word 0 is decision
D4, log 14). -/
def Obligations.LoadedImageIsFetched : Prop :=
  ∀ (image : List Byte) (s t : State) (k : Nat) (b0 b1 b2 b3 : Byte), s.loadProgram image = some t →
    image[4 * k]? = some b0 → image[4 * k + 1]? = some b1 → image[4 * k + 2]? = some b2 → image[4 * k + 3]? = some b3 →
    let w := Memory.readWord t.imem (Config.resetPc + BitVec.ofNat 8 k)
    w.extractLsb' 24 8 = b0 ∧ w.extractLsb' 16 8 = b1 ∧ w.extractLsb' 8 8 = b2 ∧ w.extractLsb' 0 8 = b3

/-- A fetch outside the loaded program is a fetch like any other (R45, which the spec derives): each byte nothing has loaded has
its launch value, the word of the four is decoded, and either its instruction runs or it is refused by its reason; no running
machine faults. The launch values are any values (decision D3, log 6); IR, clock and draw as in the statement above (log 24, 4, 5). -/
def Obligations.UnloadedWordIsFetchedLikeAnyOther : Prop :=
  ∀ s : State, s.halted = false →
    let byte := fun k => match Memory.read s.imem (4 * s.pc.toNat + k) with
      | some b => b
      | none => Config.imemInit (4 * s.pc.toNat + k)
    let w : Word := byte 0 ++ byte 1 ++ byte 2 ++ byte 3
    (∀ i, decodeWord w = .ok i →
      step s = exec i { s with ir := w, clock := Config.anyClock s.draws, draws := s.draws + 1 }) ∧
    (∀ e, decodeWord w = .error e → step s = .refused (refusalOf e)) ∧
    ∀ x, step s ≠ .fault x

/-- The launch value of a byte stays for the whole run: a word nothing has loaded is the same at every fetch of it (R44: fixed at
launch; decision D3, log 6). -/
def Obligations.LaunchContentIsFixed : Prop :=
  ∀ (s t : State) (p : Pc), Reaches s t → (∀ k, k < 4 → Memory.read s.imem (4 * p.toNat + k) = none) →
    Memory.readWord t.imem p = Config.imemInit (4 * p.toNat) ++ Config.imemInit (4 * p.toNat + 1) ++
      Config.imemInit (4 * p.toNat + 2) ++ Config.imemInit (4 * p.toNat + 3)

/-- A halted machine takes no step, and stays the state it is (decision D12; the stop's name is log 9). -/
def Obligations.HaltedMachineTakesNoStep : Prop :=
  ∀ s : State, s.halted = true → step s = .fault .halted ∧ ∀ t, Reaches s t → t = s

/-- A word the decoder rejects is refused by its reason whatever the flags are: the condition is not looked at (decision D7, log 11). -/
def Obligations.RejectedWordIsRefusedBeforeItsCondition : Prop :=
  ∀ (s : State) (w : Word) (f : Flags), s.halted = false → Memory.readWord s.imem s.pc = w →
    ((byte0 w = 0xE1#8 ∨ byte0 w = 0xF1#8) → step (s.setFlags f) = .refused .ambiguousCondition) ∧
    (byte0 w ≠ 0xE1#8 → byte0 w ≠ 0xF1#8 → ¬(ValidCond (byte0 w) ∧ ValidOperation (byte0 w) (byte1 w)) →
      step (s.setFlags f) = .refused .invalidEncoding) ∧
    (byte0 w ≠ 0xE1#8 → byte0 w ≠ 0xF1#8 → ValidCond (byte0 w) → ValidOperation (byte0 w) (byte1 w) →
      BadRegister (byte0 w) (byte1 w) (byte2 w) (byte3 w) → step (s.setFlags f) = .refused .invalidRegister)

/-- After reset the PC is 0, the machine is not halted and nothing is loaded; so it is a start state, and the start states are
the reset states with any values of `RESET_REGS`, any load and any number of the first draw (decisions D3, D4, D5 and D12; log 1, 2,
3, 5, 6, 14). -/
def Obligations.ResetIsAStartState : Prop :=
  State.reset.pc = 0#8 ∧ State.reset.halted = false ∧ (∀ a, Memory.read State.reset.imem a = none) ∧ StartState State.reset ∧
    ∀ s, StartState s ↔ ∃ r m k, Memory.wf m ∧ s = { State.resetWith r with imem := m, draws := k }

/-- A loaded program keeps the canonical form of memory, and nothing but memory changes (R221's load; the form is the model's, log 10). -/
def Obligations.LoadKeepsTheMemoryForm : Prop :=
  ∀ (image : List Byte) (s t : State), Memory.wf s.imem → s.loadProgram image = some t →
    Memory.wf t.imem ∧ t = { s with imem := t.imem } ∧
      ∀ a, image.length ≤ a → Memory.read t.imem a = Memory.read s.imem a

/-- Every step keeps the canonical form of memory (the model's form, log 10). -/
def Obligations.StepKeepsTheMemoryForm : Prop :=
  ∀ s t : State, Memory.wf s.imem → step s = .next t → Memory.wf t.imem

/-- No run changes the instruction memory: every byte, and so every fetch, reads as it did at the start (R46, R49,
which the spec derives). -/
def Obligations.RunsNeverChangeMemory : Prop :=
  ∀ s t : State, Reaches s t →
    (∀ a, Memory.read t.imem a = Memory.read s.imem a) ∧
      ∀ p, Memory.readWord t.imem p = Memory.readWord s.imem p

/-! ### Conditions -/

/-- An instruction whose condition does not hold changes the PC and nothing else; so of every one of the 39 (decision D26; the
PC's step D1 and D2; log 24, 13). -/
def Obligations.FalseConditionOnlyAdvances : Prop :=
  ∀ (i : Instr) (s : State), condHolds i.cond s.flags = false → exec i s = .next { s with pc := s.pc + 1#8 }

/-- The condition table as functions of the flags (R92; the OR of G, LE, A and BE is the spec's recovery, N1, log 21). -/
def Obligations.ConditionTable : Prop :=
  ∀ f : Flags,
    condHolds .none f = true ∧ (condHolds .z f = true ↔ f.zf = true) ∧ (condHolds .nz f = true ↔ f.zf = false) ∧
    (condHolds .s f = true ↔ f.sf = true) ∧ (condHolds .ns f = true ↔ f.sf = false) ∧
    (condHolds .g f = true ↔ f.zf = false ∧ f.sf = f.vf) ∧ (condHolds .ge f = true ↔ f.sf = f.vf) ∧
    (condHolds .l f = true ↔ f.sf ≠ f.vf) ∧ (condHolds .le f = true ↔ f.zf = true ∨ f.sf ≠ f.vf) ∧
    (condHolds .a f = true ↔ f.zf = false ∧ f.cf = false) ∧ (condHolds .nc f = true ↔ f.cf = false) ∧
    (condHolds .c f = true ↔ f.cf = true) ∧ (condHolds .be f = true ↔ f.zf = true ∨ f.cf = true) ∧
    (condHolds .v f = true ↔ f.vf = true) ∧ (condHolds .nv f = true ↔ f.vf = false) ∧
    (condHolds .p f = true ↔ f.pf = true) ∧ (condHolds .np f = true ↔ f.pf = false) ∧
    (condHolds .hc f = true ↔ f.af = true) ∧ (condHolds .nhc f = true ↔ f.af = false)

/-- After CMP or SUB of a and b, in either form, the conditions compare a with b, signed and unsigned (R93, which the spec derives). -/
def Obligations.ConditionsAfterCompare : Prop :=
  ∀ (d r : Reg) (v : Byte) (s : State),
    (∃ t, exec (.cmpRR .none d r) s = .next t ∧ ComparisonConditions (s.reg d) (s.reg r) t.flags) ∧
    (∃ t, exec (.cmpRI .none d v) s = .next t ∧ ComparisonConditions (s.reg d) v t.flags) ∧
    (∃ t, exec (.subRR .none d r) s = .next t ∧ ComparisonConditions (s.reg d) (s.reg r) t.flags) ∧
    (∃ t, exec (.subRI .none d v) s = .next t ∧ ComparisonConditions (s.reg d) v t.flags)

/-! ### Supergroup 0 -/

/-- NOP only advances the PC, whether its condition holds or not (flags unchanged: decision D23, log 20). The step of the PC:
decisions D1 and D2 (log 13). -/
def Obligations.NopOnlyAdvances : Prop :=
  (∀ cc a1 a2, decodeOperation cc 0#3 0x00#8 a1 a2 = .ok (.nop cc) ∧ cycles (.nop cc) = 1) ∧
    ∀ (cc : Cond) (s : State), exec (.nop cc) s = .next { s with pc := s.pc + 1#8 }

/-- HLT halts the machine; registers, flags and memory stay; the PC is free and not spoken of (decisions D12 and D23; log 27,
20). RL and RH: decision D28 (log 24). -/
def Obligations.HltHalts : Prop :=
  (∀ cc a1 a2, decodeOperation cc 0#3 0x01#8 a1 a2 = .ok (.hlt cc) ∧ cycles (.hlt cc) = 1) ∧
    ∀ (cc : Cond) (s : State), condHolds cc s.flags = true →
      ∃ t, exec (.hlt cc) s = .next t ∧ t.halted = true ∧ RegsKept [] s t ∧ t.flags = s.flags ∧ MemoryKept s t ∧
        PartsKept s t ∧ t.ir = s.ir ∧ t.clock = s.clock

/-- JMP Label sets the PC to the label, a taken jump adds nothing, an untaken one falls through (decisions D10, D11 and D23;
log 15, 20). The step of the PC: decisions D1 and D2 (log 13). -/
def Obligations.JumpToLabel : Prop :=
  (∀ cc a1 a2, decodeOperation cc 0#3 0x02#8 a1 a2 = .ok (.jmpLabel cc a1) ∧ cycles (.jmpLabel cc a1) = 1) ∧
    ∀ (cc : Cond) (label : Pc) (s : State),
      exec (.jmpLabel cc label) s = .next { s with pc := if condHolds cc s.flags = true then label else s.pc + 1#8 }

/-- JMP REG sets the PC to the register's value (decisions D10, D11 and D23; log 15, 20). The refusal of register codes:
decision D8 (log 11). -/
def Obligations.JumpToRegister : Prop :=
  CodedR 0#3 0x03#8 1 .jmpReg ∧
    ∀ (cc : Cond) (d : Reg) (s : State), condHolds cc s.flags = true →
      exec (.jmpReg cc d) s = .next { s with pc := s.reg d }

/-- MOV REG, IMM (flags unchanged: decision D23, log 20). The step of the PC, the refusal of register codes, and RL and RH:
decisions D1, D2, D8 and D28 (log 13, 11, 24). -/
def Obligations.MoveImmediate : Prop :=
  CodedRI 0#3 0x04#8 1 .movRI ∧
    ∀ (cc : Cond) (d : Reg) (v : Byte) (s : State), condHolds cc s.flags = true →
      ∃ t, exec (.movRI cc d v) s = .next t ∧ t.reg d = v ∧ t.flags = s.flags ∧ PartsKept s t ∧ PcNext s t ∧ KeptBut [d] s t

/-- MOV REG, REG; with one register twice nothing but the PC changes (flags unchanged: decision D23, log 20). The step of the
PC, the refusal of register codes, and RL and RH: decisions D1, D2, D8 and D28 (log 13, 11, 24). -/
def Obligations.MoveRegister : Prop :=
  CodedRR 0#3 0x05#8 1 .movRR ∧
    ∀ (cc : Cond) (d r : Reg) (s : State), condHolds cc s.flags = true →
      ∃ t, exec (.movRR cc d r) s = .next t ∧ t.reg d = s.reg r ∧ t.flags = s.flags ∧ PartsKept s t ∧ PcNext s t ∧ KeptBut [d] s t

/-- MUL: the two registers and RL, RH hold the unsigned product, CF says whether the high part is not 0; with one register
twice that register is free (decisions D13 and D15; log 16, 17). The step of the PC, the refusal of register codes, and RL and
RH: decisions D1, D2, D8 and D28 (log 13, 11, 24). -/
def Obligations.MultiplyRegisters : Prop :=
  CodedRR 0#3 0x06#8 12 .mulRR ∧
    ∀ (cc : Cond) (d r : Reg) (s : State), condHolds cc s.flags = true →
      ∃ t, exec (.mulRR cc d r) s = .next t ∧
        (d ≠ r → (t.reg d).toNat + 256 * (t.reg r).toNat = (s.reg d).toNat * (s.reg r).toNat) ∧
        (t.flags.cf = true ↔ (s.reg d).toNat * (s.reg r).toNat > 255) ∧
        t.rl.toNat + 256 * t.rh.toNat = (s.reg d).toNat * (s.reg r).toNat ∧ PcNext s t ∧ KeptBut [d, r] s t

/-- DIV: unsigned quotient and remainder in the two registers and in RL, RH, CF says whether the remainder is not 0; with one
register twice that register is free; a divisor of 0 is refused (decisions D13 to D15; log 12, 16, 17). The step of the PC,
the refusal of register codes, and RL and RH: decisions D1, D2, D8 and D28 (log 13, 11, 24). -/
def Obligations.DivideRegisters : Prop :=
  CodedRR 0#3 0x07#8 12 .divRR ∧
    ∀ (cc : Cond) (d r : Reg) (s : State), condHolds cc s.flags = true →
      ((s.reg r).toNat ≠ 0 →
        ∃ t, exec (.divRR cc d r) s = .next t ∧
          (d ≠ r → (s.reg d).toNat = (t.reg d).toNat * (s.reg r).toNat + (t.reg r).toNat ∧ (t.reg r).toNat < (s.reg r).toNat) ∧
          (t.flags.cf = true ↔ ¬(s.reg r).toNat ∣ (s.reg d).toNat) ∧
          (s.reg d).toNat = t.rl.toNat * (s.reg r).toNat + t.rh.toNat ∧ t.rh.toNat < (s.reg r).toNat ∧
          PcNext s t ∧ KeptBut [d, r] s t) ∧
      ((s.reg r).toNat = 0 → exec (.divRR cc d r) s = .refused .divideByZero)

/-! ### Supergroup 1 -/

/-- AND, ANDN, OR, NOR, XOR and XNOR of two registers, as R140 to R145 state them; AF is free. PF over all eight bits, the
step of the PC, the refusal of register codes, and RL and RH: decisions D18, D1, D2, D8 and D28 (log 18, 13, 11, 24). -/
def Obligations.LogicBetweenRegisters : Prop :=
  LogicRegForm 0x00#8 .andRR (fun x y => x && y) ∧ LogicRegForm 0x01#8 .andnRR (fun x y => !(x && y)) ∧
    LogicRegForm 0x02#8 .orRR (fun x y => x || y) ∧ LogicRegForm 0x03#8 .norRR (fun x y => !(x || y)) ∧
    LogicRegForm 0x04#8 .xorRR (fun x y => x != y) ∧ LogicRegForm 0x05#8 .xnorRR (fun x y => x == y)

/-- AND, ANDN, OR, NOR, XOR and XNOR of a register and an immediate, as R170 to R175 state them; AF is free. PF over all eight
bits, the step of the PC, the refusal of register codes, and RL and RH: decisions D18, D1, D2, D8 and D28 (log 18, 13, 11,
24). -/
def Obligations.LogicWithImmediate : Prop :=
  LogicImmForm 0x10#8 .andRI (fun x y => x && y) ∧ LogicImmForm 0x11#8 .andnRI (fun x y => !(x && y)) ∧
    LogicImmForm 0x12#8 .orRI (fun x y => x || y) ∧ LogicImmForm 0x13#8 .norRI (fun x y => !(x || y)) ∧
    LogicImmForm 0x14#8 .xorRI (fun x y => x != y) ∧ LogicImmForm 0x15#8 .xnorRI (fun x y => x == y)

/-- ADD of two registers: the sum modulo 256 and all six flags (VF and AF by decision D18, log 18). PF over all eight bits,
the step of the PC, the refusal of register codes, and RL and RH: decisions D18, D1, D2, D8 and D28 (log 18, 13, 11, 24). -/
def Obligations.AddRegisters : Prop :=
  CodedRR 1#3 0x06#8 2 .addRR ∧
    ∀ (cc : Cond) (d r : Reg) (s : State), condHolds cc s.flags = true →
      ∃ t, exec (.addRR cc d r) s = .next t ∧ (t.reg d).toNat = ((s.reg d).toNat + (s.reg r).toNat) % 256 ∧
        AddCarry (s.reg d) (s.reg r) t.flags ∧ AddFlagsButCarry (s.reg d) (s.reg r) (t.reg d) t.flags ∧
        t.rl = s.reg d ∧ t.rh = s.rh ∧ PcNext s t ∧ KeptBut [d] s t

/-- ADD of a register and an immediate (VF and AF by decision D18, log 18). PF over all eight bits, the step of the PC, the
refusal of register codes, and RL and RH: decisions D18, D1, D2, D8 and D28 (log 18, 13, 11, 24). -/
def Obligations.AddImmediate : Prop :=
  CodedRI 1#3 0x16#8 1 .addRI ∧
    ∀ (cc : Cond) (d : Reg) (v : Byte) (s : State), condHolds cc s.flags = true →
      ∃ t, exec (.addRI cc d v) s = .next t ∧ (t.reg d).toNat = ((s.reg d).toNat + v.toNat) % 256 ∧
        AddCarry (s.reg d) v t.flags ∧ AddFlagsButCarry (s.reg d) v (t.reg d) t.flags ∧
        PartsKept s t ∧ PcNext s t ∧ KeptBut [d] s t

/-- SUB of two registers: the difference modulo 256 and all six flags (AF by decision D17, log 18). PF over all eight bits,
the step of the PC, the refusal of register codes, and RL and RH: decisions D18, D1, D2, D8 and D28 (log 18, 13, 11, 24). -/
def Obligations.SubtractRegisters : Prop :=
  CodedRR 1#3 0x07#8 2 .subRR ∧
    ∀ (cc : Cond) (d r : Reg) (s : State), condHolds cc s.flags = true →
      ∃ t, exec (.subRR cc d r) s = .next t ∧ (t.reg d).toNat = (256 + (s.reg d).toNat - (s.reg r).toNat) % 256 ∧
        SubBorrow (s.reg d) (s.reg r) t.flags ∧ SubFlagsButCarry (s.reg d) (s.reg r) (t.reg d) t.flags ∧
        t.rl = s.reg d ∧ t.rh = s.rh ∧ PcNext s t ∧ KeptBut [d] s t

/-- SUB of an immediate from a register (AF by decision D17, log 18; the direction by C2, log 21). PF over all eight bits, the
step of the PC, the refusal of register codes, and RL and RH: decisions D18, D1, D2, D8 and D28 (log 18, 13, 11, 24). -/
def Obligations.SubtractImmediate : Prop :=
  CodedRI 1#3 0x17#8 1 .subRI ∧
    ∀ (cc : Cond) (d : Reg) (v : Byte) (s : State), condHolds cc s.flags = true →
      ∃ t, exec (.subRI cc d v) s = .next t ∧ (t.reg d).toNat = (256 + (s.reg d).toNat - v.toNat) % 256 ∧
        SubBorrow (s.reg d) v t.flags ∧ SubFlagsButCarry (s.reg d) v (t.reg d) t.flags ∧
        PartsKept s t ∧ PcNext s t ∧ KeptBut [d] s t

/-- CMP in both forms writes the flags of the difference and no register (decisions D17 and D24; log 18, 20). PF over all
eight bits, the step of the PC, the refusal of register codes, and RL and RH: decisions D18, D1, D2, D8 and D28 (log 18, 13,
11, 24). -/
def Obligations.CompareWritesOnlyFlags : Prop :=
  CodedRR 1#3 0x09#8 2 .cmpRR ∧ CodedRI 1#3 0x08#8 1 .cmpRI ∧
    (∀ (cc : Cond) (d r : Reg) (s : State), condHolds cc s.flags = true →
      ∃ t, exec (.cmpRR cc d r) s = .next t ∧ SubBorrow (s.reg d) (s.reg r) t.flags ∧
        SubFlagsButCarry (s.reg d) (s.reg r) (s.reg d - s.reg r) t.flags ∧
        t.rl = s.reg d ∧ t.rh = s.rh ∧ PcNext s t ∧ KeptBut [] s t) ∧
    ∀ (cc : Cond) (d : Reg) (v : Byte) (s : State), condHolds cc s.flags = true →
      ∃ t, exec (.cmpRI cc d v) s = .next t ∧ SubBorrow (s.reg d) v t.flags ∧
        SubFlagsButCarry (s.reg d) v (s.reg d - v) t.flags ∧ PartsKept s t ∧ PcNext s t ∧ KeptBut [] s t

/-- TEST in both forms writes the flags of AND and no register (decision D24, log 20). PF over all eight bits, the step of the
PC, the refusal of register codes, and RL and RH: decisions D18, D1, D2, D8 and D28 (log 18, 13, 11, 24). -/
def Obligations.TestWritesOnlyFlags : Prop :=
  CodedRR 1#3 0x0B#8 2 .testRR ∧ CodedRI 1#3 0x0A#8 1 .testRI ∧
    (∀ (cc : Cond) (d r : Reg) (s : State), condHolds cc s.flags = true →
      ∃ t, exec (.testRR cc d r) s = .next t ∧ LogicalFlags (s.reg d &&& s.reg r) t.flags ∧
        t.rl = s.reg d ∧ t.rh = s.rh ∧ PcNext s t ∧ KeptBut [] s t) ∧
    ∀ (cc : Cond) (d : Reg) (v : Byte) (s : State), condHolds cc s.flags = true →
      ∃ t, exec (.testRI cc d v) s = .next t ∧ LogicalFlags (s.reg d &&& v) t.flags ∧
        PartsKept s t ∧ PcNext s t ∧ KeptBut [] s t

/-- SHR in both forms: zeros enter at bit 7, CF is the last bit out (counts of 0 and of 8 or more, and VF: decisions D19 to
D21, log 19). PF over all eight bits, the step of the PC, the refusal of register codes, and RL and RH: decisions D18, D1, D2,
D8 and D28 (log 18, 13, 11, 24). -/
def Obligations.ShiftRightLogical : Prop :=
  ShiftForms 0x0C#8 0x1C#8 .shrRR .shrRI (fun a n k => if k + n < 8 then a.getLsbD (k + n) else false)
    (fun a n => a.getLsbD (n - 1))

/-- SHL in both forms: zeros enter at bit 0, CF is the last bit out of bit 7 (decisions D19 to D21, log 19). PF over all eight
bits, the step of the PC, the refusal of register codes, and RL and RH: decisions D18, D1, D2, D8 and D28 (log 18, 13, 11,
24). -/
def Obligations.ShiftLeft : Prop :=
  ShiftForms 0x0D#8 0x1D#8 .shlRR .shlRI (fun a n k => if k < n then false else a.getLsbD (k - n))
    (fun a n => a.getLsbD (8 - n))

/-- SAR in both forms: copies of bit 7 enter at bit 7, CF is the last bit out (decisions D19 to D21, log 19). PF over all
eight bits, the step of the PC, the refusal of register codes, and RL and RH: decisions D18, D1, D2, D8 and D28 (log 18, 13,
11, 24). -/
def Obligations.ShiftRightArithmetic : Prop :=
  ShiftForms 0x0E#8 0x1E#8 .sarRR .sarRI (fun a n k => if k + n < 8 then a.getLsbD (k + n) else a.getLsbD 7)
    (fun a n => a.getLsbD (n - 1))

/-- NOT complements the register and affects no flag, as R178 states. The step of the PC, the refusal of register codes, and
RL and RH: decisions D1, D2, D8 and D28 (log 13, 11, 24). -/
def Obligations.NotComplements : Prop :=
  CodedR 1#3 0x18#8 1 .notR ∧
    ∀ (cc : Cond) (d : Reg) (s : State), condHolds cc s.flags = true →
      ∃ t, exec (.notR cc d) s = .next t ∧ (t.reg d).toNat = 255 - (s.reg d).toNat ∧ t.flags = s.flags ∧
        PartsKept s t ∧ PcNext s t ∧ KeptBut [d] s t

/-- NEG: two's complement; CF says whether the register was not zero (VF and AF as the spec derives them, log 18). PF over all
eight bits, the step of the PC, the refusal of register codes, and RL and RH: decisions D18, D1, D2, D8 and D28 (log 18, 13,
11, 24). -/
def Obligations.NegateRegister : Prop :=
  CodedR 1#3 0x19#8 1 .negR ∧
    ∀ (cc : Cond) (d : Reg) (s : State), condHolds cc s.flags = true →
      ∃ t, exec (.negR cc d) s = .next t ∧ (t.reg d).toNat = (256 - (s.reg d).toNat) % 256 ∧
        (t.flags.cf = true ↔ (s.reg d).toNat ≠ 0) ∧ (t.flags.vf = true ↔ (s.reg d).toNat = 128) ∧
        (t.flags.af = true ↔ (s.reg d).toNat % 16 ≠ 0) ∧ ResultFlags (t.reg d) t.flags ∧
        PartsKept s t ∧ PcNext s t ∧ KeptBut [d] s t

/-- INC adds 1 and keeps CF (VF and AF by decision D18, log 18). PF over all eight bits, the step of the PC, the refusal of
register codes, and RL and RH: decisions D18, D1, D2, D8 and D28 (log 18, 13, 11, 24). -/
def Obligations.IncrementKeepsCarry : Prop :=
  CodedR 1#3 0x1A#8 1 .incR ∧
    ∀ (cc : Cond) (d : Reg) (s : State), condHolds cc s.flags = true →
      ∃ t, exec (.incR cc d) s = .next t ∧ (t.reg d).toNat = ((s.reg d).toNat + 1) % 256 ∧ t.flags.cf = s.flags.cf ∧
        AddFlagsButCarry (s.reg d) 1#8 (t.reg d) t.flags ∧ PartsKept s t ∧ PcNext s t ∧ KeptBut [d] s t

/-- DEC subtracts 1 and keeps CF (AF by decision D17, log 18). PF over all eight bits, the step of the PC, the refusal of
register codes, and RL and RH: decisions D18, D1, D2, D8 and D28 (log 18, 13, 11, 24). -/
def Obligations.DecrementKeepsCarry : Prop :=
  CodedR 1#3 0x1B#8 1 .decR ∧
    ∀ (cc : Cond) (d : Reg) (s : State), condHolds cc s.flags = true →
      ∃ t, exec (.decR cc d) s = .next t ∧ (t.reg d).toNat = ((s.reg d).toNat + 255) % 256 ∧ t.flags.cf = s.flags.cf ∧
        SubFlagsButCarry (s.reg d) 1#8 (t.reg d) t.flags ∧ PartsKept s t ∧ PcNext s t ∧ KeptBut [d] s t

/-- MIRROR reverses the bits; every flag is free (decision D22, log 20). The step of the PC, the refusal of register codes,
and RL and RH: decisions D1, D2, D8 and D28 (log 13, 11, 24). -/
def Obligations.MirrorReversesBits : Prop :=
  CodedR 1#3 0x1F#8 1 .mirrorR ∧
    ∀ (cc : Cond) (d : Reg) (s : State), condHolds cc s.flags = true →
      ∃ t, exec (.mirrorR cc d) s = .next t ∧ (∀ k, k < 8 → (t.reg d).getLsbD k = (s.reg d).getLsbD (7 - k)) ∧
        PartsKept s t ∧ PcNext s t ∧ KeptBut [d] s t

/-! ### Instructions against each other -/

/-- INC differs from ADD REG, 1 and DEC from SUB REG, 1 in CF only. RL, RH and the draw counter, which the whole-state
equality takes in, are the model's (log 24, 5). -/
def Obligations.IncrementIsAddOneButCarry : Prop :=
  ∀ (cc : Cond) (d : Reg) (s : State), condHolds cc s.flags = true →
    (∃ t u, exec (.incR cc d) s = .next t ∧ exec (.addRI cc d 1#8) s = .next u ∧
      t = { u with flags := { u.flags with cf := s.flags.cf } }) ∧
    (∃ t u, exec (.decR cc d) s = .next t ∧ exec (.subRI cc d 1#8) s = .next u ∧
      t = { u with flags := { u.flags with cf := s.flags.cf } })

/-- NEG is a subtraction from zero: with 0 in another register, SUB of the two gives NEG's result and all its flags. -/
def Obligations.NegateIsSubtractFromZero : Prop :=
  ∀ (cc : Cond) (d r : Reg) (s : State), condHolds cc s.flags = true → d ≠ r → s.reg r = 0#8 →
    ∃ t u, exec (.negR cc d) s = .next t ∧ exec (.subRR cc r d) s = .next u ∧ u.reg r = t.reg d ∧ u.flags = t.flags

/-- CMP is SUB, and TEST is AND, without the register write, in both forms (decision D24, log 20). The states are equal whole:
that TEST and AND, run from one state, have one and the same free AF is the model's choice, since both take it at the draw
that state numbers (log 5; in the spec no ANY equals another, D16); RL and RH are log 24. -/
def Obligations.CompareAndTestStoreNothing : Prop :=
  ∀ (cc : Cond) (d r : Reg) (v : Byte) (s : State), condHolds cc s.flags = true →
    (∃ t u, exec (.cmpRR cc d r) s = .next t ∧ exec (.subRR cc d r) s = .next u ∧ t = u.setReg d (s.reg d)) ∧
    (∃ t u, exec (.cmpRI cc d v) s = .next t ∧ exec (.subRI cc d v) s = .next u ∧ t = u.setReg d (s.reg d)) ∧
    (∃ t u, exec (.testRR cc d r) s = .next t ∧ exec (.andRR cc d r) s = .next u ∧ t = u.setReg d (s.reg d)) ∧
    (∃ t u, exec (.testRI cc d v) s = .next t ∧ exec (.andRI cc d v) s = .next u ∧ t = u.setReg d (s.reg d))

/-- MIRROR twice, and NOT twice, restore the register (unconditional forms). -/
def Obligations.MirrorAndNotAreTheirOwnInverses : Prop :=
  ∀ (d : Reg) (s : State),
    (∃ t u, exec (.mirrorR .none d) s = .next t ∧ exec (.mirrorR .none d) t = .next u ∧ u.reg d = s.reg d) ∧
    (∃ t u, exec (.notR .none d) s = .next t ∧ exec (.notR .none d) t = .next u ∧ u.reg d = s.reg d)

/-! ### Rules of the whole machine -/

/-- An instruction always answers a next state, but for an executed DIV whose divisor is 0, which is refused by name
(decisions D14 and D25; log 12, 22). -/
def Obligations.OnlyAZeroDivisorStopsAnInstruction : Prop :=
  ∀ (i : Instr) (s : State),
    (∃ t, exec i s = .next t) ∨
      (exec i s = .refused .divideByZero ∧
        ∃ cc d r, i = .divRR cc d r ∧ condHolds cc s.flags = true ∧ s.reg r = 0#8)

/-- Every instruction ends with the PC at the next word, modulo 256, but for an executed JMP, which sets it to its target, and an
executed HLT, after which it is free (decisions D1 to D3, D11 and D12; log 13, 15, 27). -/
def Obligations.PcMovesToTheNextWord : Prop :=
  ∀ (i : Instr) (s t : State), exec i s = .next t →
    PcNext s t ∨
      (condHolds i.cond s.flags = true ∧
        ((∃ cc, i = .hlt cc) ∨ (∃ cc label, i = .jmpLabel cc label ∧ t.pc = label) ∨
          ∃ cc d, i = .jmpReg cc d ∧ t.pc = s.reg d))

/-- An instruction writes no general-purpose register but its destinations, and no byte of memory (R11, R46, which the spec
derives; IR and the clock counter are log 24 and 4). -/
def Obligations.OnlyDestinationsAreWritten : Prop :=
  ∀ (i : Instr) (s t : State), exec i s = .next t →
    RegsKept (destinations i) s t ∧ MemoryKept s t ∧ t.ir = s.ir ∧ t.clock = s.clock

/-- Only MUL, DIV and supergroup 1 but NOT write flags, and only when executed; INC and DEC do not write CF (decision D23, log 20). -/
def Obligations.OnlyMulDivAndAluWriteFlags : Prop :=
  ∀ (i : Instr) (s t : State), exec i s = .next t →
    ((condHolds i.cond s.flags = false ∨ (i.isAlu = false ∧ ∀ cc d r, i ≠ .mulRR cc d r ∧ i ≠ .divRR cc d r) ∨
      ∃ cc d, i = .notR cc d) → t.flags = s.flags) ∧
    ((∃ cc d, i = .incR cc d ∨ i = .decR cc d) → t.flags.cf = s.flags.cf)

/-- RH changes only by an executed MUL or DIV; RL only by those and the executed two-register forms of supergroup 1 (decisions D26 and D28;
log 24). -/
def Obligations.OnlyMulAndDivWriteRh : Prop :=
  ∀ (i : Instr) (s t : State), exec i s = .next t →
    (t.rh ≠ s.rh → condHolds i.cond s.flags = true ∧ ∃ cc d r, i = .mulRR cc d r ∨ i = .divRR cc d r) ∧
    (t.rl ≠ s.rl → condHolds i.cond s.flags = true ∧
      ((∃ cc d r, i = .mulRR cc d r ∨ i = .divRR cc d r) ∨ (i.isAlu = true ∧ i.format = .rr)))

/-- A step halts the machine exactly when the word it fetched is a HLT whose condition holds (decision D12, log 27). -/
def Obligations.OnlyHltHalts : Prop :=
  ∀ s t : State, step s = .next t →
    (t.halted = true ↔
      ∃ cc, decodeWord (Memory.readWord s.imem s.pc) = .ok (.hlt cc) ∧ condHolds cc s.flags = true)

/-- What a step can be: a next state, a halted machine, or one of the four refusals of R201; it is never refused for want of a
meaning (the name of the fault is the model's, log 9). -/
def Obligations.StepOutcomesAreTheClosedList : Prop :=
  ∀ s : State,
    (∃ t, step s = .next t ∧ s.halted = false) ∨ (step s = .fault .halted ∧ s.halted = true) ∨
      (s.halted = false ∧ (step s = .refused .invalidEncoding ∨ step s = .refused .ambiguousCondition ∨
        step s = .refused .invalidRegister ∨ step s = .refused .divideByZero))

/-- IR, RL, RH and the clock counter are never observable: states that agree on all else take steps that agree on all else
(decision D28, log 24; among it the draw counter, log 5). -/
def Obligations.HiddenRegistersAreNotObservable : Prop :=
  ∀ s t : State, SameVisible s t → SameOutcome SameVisible (step s) (step t)

/-- Under the default `HC_DECODE` AF is write-only: states that differ in AF alone take steps that differ in AF at most (decision D6, log 8;
the draw counter is among what agrees, log 5). -/
def Obligations.AuxiliaryCarryIsWriteOnly : Prop :=
  ∀ s t : State, SameButAf s t → SameOutcome SameButAf (step s) (step t)

/-- Every step raises the draw counter, the model's own field (log 5). -/
def Obligations.EveryStepDrawsAnew : Prop :=
  ∀ s t : State, step s = .next t → s.draws < t.draws
end

