-- ==== Sys2Proof/Laws/Decode.lean ====
section
/-! SUPPORT. The small lemmas of the decoder and the encoder: fields of a word, register codes, operand forms. -/

namespace Sys2Proof

@[simp] theorem byte0_joinBytes (b0 b1 b2 b3 : Byte) : byte0 (joinBytes b0 b1 b2 b3) = b0 := by
  ext k hk
  simp [byte0, joinBytes, BitVec.getElem_extractLsb']
  grind

@[simp] theorem byte1_joinBytes (b0 b1 b2 b3 : Byte) : byte1 (joinBytes b0 b1 b2 b3) = b1 := by
  ext k hk
  simp [byte1, joinBytes, BitVec.getElem_extractLsb']
  grind

@[simp] theorem byte2_joinBytes (b0 b1 b2 b3 : Byte) : byte2 (joinBytes b0 b1 b2 b3) = b2 := by
  ext k hk
  simp [byte2, joinBytes, BitVec.getElem_extractLsb']
  grind

@[simp] theorem byte3_joinBytes (b0 b1 b2 b3 : Byte) : byte3 (joinBytes b0 b1 b2 b3) = b3 := by
  ext k hk
  simp [byte3, joinBytes, BitVec.getElem_extractLsb']
  grind

/-- A word is its four bytes. -/
theorem joinBytes_bytes (w : Word) : joinBytes (byte0 w) (byte1 w) (byte2 w) (byte3 w) = w := by
  ext k hk
  simp [byte0, byte1, byte2, byte3, joinBytes]
  grind

@[simp] theorem decodeReg_code (r : Reg) : decodeReg r.code = .ok r := by cases r <;> rfl

/-- The codes above 3 name no register. -/
theorem decodeReg_of_gt {b : Byte} (h : b.toNat > 3) : decodeReg b = .error .invalidRegister := by
  unfold decodeReg
  split <;> first | rfl | (simp at h)

theorem decodeReg_ok {b : Byte} {r : Reg} (h : decodeReg b = .ok r) : b = r.code := by
  unfold decodeReg at h
  split at h <;> cases h <;> rfl

theorem decodeR_ok {a1 : Byte} {mk : Reg → Instr} {i : Instr} (h : decodeR a1 mk = .ok i) :
    ∃ d : Reg, a1 = d.code ∧ i = mk d := by
  unfold decodeR at h
  split at h
  · cases h
  · next d hd => exact ⟨d, decodeReg_ok hd, (Except.ok.inj h).symm⟩

theorem decodeRI_ok {a1 a2 : Byte} {mk : Reg → Byte → Instr} {i : Instr} (h : decodeRI a1 a2 mk = .ok i) :
    ∃ d : Reg, a1 = d.code ∧ i = mk d a2 := by
  unfold decodeRI at h
  split at h
  · cases h
  · next d hd => exact ⟨d, decodeReg_ok hd, (Except.ok.inj h).symm⟩

theorem decodeRR_ok {a1 a2 : Byte} {mk : Reg → Reg → Instr} {i : Instr} (h : decodeRR a1 a2 mk = .ok i) :
    ∃ d r : Reg, a1 = d.code ∧ a2 = r.code ∧ i = mk d r := by
  unfold decodeRR at h
  split at h
  · cases h
  · next d hd =>
    split at h
    · cases h
    · next r hr => exact ⟨d, r, decodeReg_ok hd, decodeReg_ok hr, (Except.ok.inj h).symm⟩

end Sys2Proof
end

