-- ==== Sys2Proof/Laws/State.lean ====
section
/-! SUPPORT. The state under each named update: one lemma per field per update, so that no proof unfolds an update. -/

namespace Sys2Proof.Machine

open Sys2Proof

@[simp] theorem State.resetWith_al (r : ResetRegs) : (State.resetWith r).al = r.al := rfl
@[simp] theorem State.resetWith_bl (r : ResetRegs) : (State.resetWith r).bl = r.bl := rfl
@[simp] theorem State.resetWith_cl (r : ResetRegs) : (State.resetWith r).cl = r.cl := rfl
@[simp] theorem State.resetWith_dl (r : ResetRegs) : (State.resetWith r).dl = r.dl := rfl
@[simp] theorem State.resetWith_pc (r : ResetRegs) : (State.resetWith r).pc = Config.resetPc := rfl
@[simp] theorem State.resetWith_halted (r : ResetRegs) : (State.resetWith r).halted = false := rfl
@[simp] theorem State.resetWith_ir (r : ResetRegs) : (State.resetWith r).ir = r.ir := rfl
@[simp] theorem State.resetWith_rl (r : ResetRegs) : (State.resetWith r).rl = r.rl := rfl
@[simp] theorem State.resetWith_rh (r : ResetRegs) : (State.resetWith r).rh = r.rh := rfl
@[simp] theorem State.resetWith_clock (r : ResetRegs) : (State.resetWith r).clock = r.clock := rfl
@[simp] theorem State.resetWith_imem (r : ResetRegs) : (State.resetWith r).imem = [] := rfl
@[simp] theorem State.resetWith_draws (r : ResetRegs) : (State.resetWith r).draws = 0 := rfl
@[simp] theorem State.resetWith_flags_cf (r : ResetRegs) : (State.resetWith r).flags.cf = r.cf := rfl
@[simp] theorem State.resetWith_flags_pf (r : ResetRegs) : (State.resetWith r).flags.pf = r.pf := rfl
@[simp] theorem State.resetWith_flags_vf (r : ResetRegs) : (State.resetWith r).flags.vf = r.vf := rfl
@[simp] theorem State.resetWith_flags_af (r : ResetRegs) : (State.resetWith r).flags.af = r.af := rfl
@[simp] theorem State.resetWith_flags_zf (r : ResetRegs) : (State.resetWith r).flags.zf = r.zf := rfl
@[simp] theorem State.resetWith_flags_sf (r : ResetRegs) : (State.resetWith r).flags.sf = r.sf := rfl

@[simp] theorem State.setFlags_al (s : State) (f : Flags) : (s.setFlags f).al = s.al := rfl
@[simp] theorem State.setFlags_bl (s : State) (f : Flags) : (s.setFlags f).bl = s.bl := rfl
@[simp] theorem State.setFlags_cl (s : State) (f : Flags) : (s.setFlags f).cl = s.cl := rfl
@[simp] theorem State.setFlags_dl (s : State) (f : Flags) : (s.setFlags f).dl = s.dl := rfl
@[simp] theorem State.setFlags_pc (s : State) (f : Flags) : (s.setFlags f).pc = s.pc := rfl
@[simp] theorem State.setFlags_flags (s : State) (f : Flags) : (s.setFlags f).flags = f := rfl
@[simp] theorem State.setFlags_halted (s : State) (f : Flags) : (s.setFlags f).halted = s.halted := rfl
@[simp] theorem State.setFlags_ir (s : State) (f : Flags) : (s.setFlags f).ir = s.ir := rfl
@[simp] theorem State.setFlags_rl (s : State) (f : Flags) : (s.setFlags f).rl = s.rl := rfl
@[simp] theorem State.setFlags_rh (s : State) (f : Flags) : (s.setFlags f).rh = s.rh := rfl
@[simp] theorem State.setFlags_clock (s : State) (f : Flags) : (s.setFlags f).clock = s.clock := rfl
@[simp] theorem State.setFlags_imem (s : State) (f : Flags) : (s.setFlags f).imem = s.imem := rfl
@[simp] theorem State.setFlags_draws (s : State) (f : Flags) : (s.setFlags f).draws = s.draws := rfl
@[simp] theorem State.setFlags_reg (s : State) (f : Flags) (q : Reg) : (s.setFlags f).reg q = s.reg q := by cases q <;> rfl

@[simp] theorem State.setPc_al (s : State) (t : Pc) : (s.setPc t).al = s.al := rfl
@[simp] theorem State.setPc_bl (s : State) (t : Pc) : (s.setPc t).bl = s.bl := rfl
@[simp] theorem State.setPc_cl (s : State) (t : Pc) : (s.setPc t).cl = s.cl := rfl
@[simp] theorem State.setPc_dl (s : State) (t : Pc) : (s.setPc t).dl = s.dl := rfl
@[simp] theorem State.setPc_pc (s : State) (t : Pc) : (s.setPc t).pc = t := rfl
@[simp] theorem State.setPc_flags (s : State) (t : Pc) : (s.setPc t).flags = s.flags := rfl
@[simp] theorem State.setPc_halted (s : State) (t : Pc) : (s.setPc t).halted = s.halted := rfl
@[simp] theorem State.setPc_ir (s : State) (t : Pc) : (s.setPc t).ir = s.ir := rfl
@[simp] theorem State.setPc_rl (s : State) (t : Pc) : (s.setPc t).rl = s.rl := rfl
@[simp] theorem State.setPc_rh (s : State) (t : Pc) : (s.setPc t).rh = s.rh := rfl
@[simp] theorem State.setPc_clock (s : State) (t : Pc) : (s.setPc t).clock = s.clock := rfl
@[simp] theorem State.setPc_imem (s : State) (t : Pc) : (s.setPc t).imem = s.imem := rfl
@[simp] theorem State.setPc_draws (s : State) (t : Pc) : (s.setPc t).draws = s.draws := rfl
@[simp] theorem State.setPc_reg (s : State) (t : Pc) (q : Reg) : (s.setPc t).reg q = s.reg q := by cases q <;> rfl

@[simp] theorem State.advance_al (s : State) : (s.advance).al = s.al := rfl
@[simp] theorem State.advance_bl (s : State) : (s.advance).bl = s.bl := rfl
@[simp] theorem State.advance_cl (s : State) : (s.advance).cl = s.cl := rfl
@[simp] theorem State.advance_dl (s : State) : (s.advance).dl = s.dl := rfl
@[simp] theorem State.advance_pc (s : State) : (s.advance).pc = s.pc + Config.pcInc := rfl
@[simp] theorem State.advance_flags (s : State) : (s.advance).flags = s.flags := rfl
@[simp] theorem State.advance_halted (s : State) : (s.advance).halted = s.halted := rfl
@[simp] theorem State.advance_ir (s : State) : (s.advance).ir = s.ir := rfl
@[simp] theorem State.advance_rl (s : State) : (s.advance).rl = s.rl := rfl
@[simp] theorem State.advance_rh (s : State) : (s.advance).rh = s.rh := rfl
@[simp] theorem State.advance_clock (s : State) : (s.advance).clock = s.clock := rfl
@[simp] theorem State.advance_imem (s : State) : (s.advance).imem = s.imem := rfl
@[simp] theorem State.advance_draws (s : State) : (s.advance).draws = s.draws := rfl
@[simp] theorem State.advance_reg (s : State) (q : Reg) : (s.advance).reg q = s.reg q := by cases q <;> rfl

@[simp] theorem State.setRl_al (s : State) (v : Byte) : (s.setRl v).al = s.al := rfl
@[simp] theorem State.setRl_bl (s : State) (v : Byte) : (s.setRl v).bl = s.bl := rfl
@[simp] theorem State.setRl_cl (s : State) (v : Byte) : (s.setRl v).cl = s.cl := rfl
@[simp] theorem State.setRl_dl (s : State) (v : Byte) : (s.setRl v).dl = s.dl := rfl
@[simp] theorem State.setRl_pc (s : State) (v : Byte) : (s.setRl v).pc = s.pc := rfl
@[simp] theorem State.setRl_flags (s : State) (v : Byte) : (s.setRl v).flags = s.flags := rfl
@[simp] theorem State.setRl_halted (s : State) (v : Byte) : (s.setRl v).halted = s.halted := rfl
@[simp] theorem State.setRl_ir (s : State) (v : Byte) : (s.setRl v).ir = s.ir := rfl
@[simp] theorem State.setRl_rl (s : State) (v : Byte) : (s.setRl v).rl = v := rfl
@[simp] theorem State.setRl_rh (s : State) (v : Byte) : (s.setRl v).rh = s.rh := rfl
@[simp] theorem State.setRl_clock (s : State) (v : Byte) : (s.setRl v).clock = s.clock := rfl
@[simp] theorem State.setRl_imem (s : State) (v : Byte) : (s.setRl v).imem = s.imem := rfl
@[simp] theorem State.setRl_draws (s : State) (v : Byte) : (s.setRl v).draws = s.draws := rfl
@[simp] theorem State.setRl_reg (s : State) (v : Byte) (q : Reg) : (s.setRl v).reg q = s.reg q := by cases q <;> rfl

@[simp] theorem State.setRh_al (s : State) (v : Byte) : (s.setRh v).al = s.al := rfl
@[simp] theorem State.setRh_bl (s : State) (v : Byte) : (s.setRh v).bl = s.bl := rfl
@[simp] theorem State.setRh_cl (s : State) (v : Byte) : (s.setRh v).cl = s.cl := rfl
@[simp] theorem State.setRh_dl (s : State) (v : Byte) : (s.setRh v).dl = s.dl := rfl
@[simp] theorem State.setRh_pc (s : State) (v : Byte) : (s.setRh v).pc = s.pc := rfl
@[simp] theorem State.setRh_flags (s : State) (v : Byte) : (s.setRh v).flags = s.flags := rfl
@[simp] theorem State.setRh_halted (s : State) (v : Byte) : (s.setRh v).halted = s.halted := rfl
@[simp] theorem State.setRh_ir (s : State) (v : Byte) : (s.setRh v).ir = s.ir := rfl
@[simp] theorem State.setRh_rl (s : State) (v : Byte) : (s.setRh v).rl = s.rl := rfl
@[simp] theorem State.setRh_rh (s : State) (v : Byte) : (s.setRh v).rh = v := rfl
@[simp] theorem State.setRh_clock (s : State) (v : Byte) : (s.setRh v).clock = s.clock := rfl
@[simp] theorem State.setRh_imem (s : State) (v : Byte) : (s.setRh v).imem = s.imem := rfl
@[simp] theorem State.setRh_draws (s : State) (v : Byte) : (s.setRh v).draws = s.draws := rfl
@[simp] theorem State.setRh_reg (s : State) (v : Byte) (q : Reg) : (s.setRh v).reg q = s.reg q := by cases q <;> rfl

@[simp] theorem State.setHalted_al (s : State) : (s.setHalted).al = s.al := rfl
@[simp] theorem State.setHalted_bl (s : State) : (s.setHalted).bl = s.bl := rfl
@[simp] theorem State.setHalted_cl (s : State) : (s.setHalted).cl = s.cl := rfl
@[simp] theorem State.setHalted_dl (s : State) : (s.setHalted).dl = s.dl := rfl
@[simp] theorem State.setHalted_pc (s : State) : (s.setHalted).pc = s.pc := rfl
@[simp] theorem State.setHalted_flags (s : State) : (s.setHalted).flags = s.flags := rfl
@[simp] theorem State.setHalted_halted (s : State) : (s.setHalted).halted = true := rfl
@[simp] theorem State.setHalted_ir (s : State) : (s.setHalted).ir = s.ir := rfl
@[simp] theorem State.setHalted_rl (s : State) : (s.setHalted).rl = s.rl := rfl
@[simp] theorem State.setHalted_rh (s : State) : (s.setHalted).rh = s.rh := rfl
@[simp] theorem State.setHalted_clock (s : State) : (s.setHalted).clock = s.clock := rfl
@[simp] theorem State.setHalted_imem (s : State) : (s.setHalted).imem = s.imem := rfl
@[simp] theorem State.setHalted_draws (s : State) : (s.setHalted).draws = s.draws := rfl
@[simp] theorem State.setHalted_reg (s : State) (q : Reg) : (s.setHalted).reg q = s.reg q := by cases q <;> rfl

@[simp] theorem State.drawn_al (s : State) : (s.drawn).al = s.al := rfl
@[simp] theorem State.drawn_bl (s : State) : (s.drawn).bl = s.bl := rfl
@[simp] theorem State.drawn_cl (s : State) : (s.drawn).cl = s.cl := rfl
@[simp] theorem State.drawn_dl (s : State) : (s.drawn).dl = s.dl := rfl
@[simp] theorem State.drawn_pc (s : State) : (s.drawn).pc = s.pc := rfl
@[simp] theorem State.drawn_flags (s : State) : (s.drawn).flags = s.flags := rfl
@[simp] theorem State.drawn_halted (s : State) : (s.drawn).halted = s.halted := rfl
@[simp] theorem State.drawn_ir (s : State) : (s.drawn).ir = s.ir := rfl
@[simp] theorem State.drawn_rl (s : State) : (s.drawn).rl = s.rl := rfl
@[simp] theorem State.drawn_rh (s : State) : (s.drawn).rh = s.rh := rfl
@[simp] theorem State.drawn_clock (s : State) : (s.drawn).clock = s.clock := rfl
@[simp] theorem State.drawn_imem (s : State) : (s.drawn).imem = s.imem := rfl
@[simp] theorem State.drawn_draws (s : State) : (s.drawn).draws = s.draws + 1 := rfl
@[simp] theorem State.drawn_reg (s : State) (q : Reg) : (s.drawn).reg q = s.reg q := by cases q <;> rfl

@[simp] theorem State.fetched_al (s : State) (w : Word) : (s.fetched w).al = s.al := rfl
@[simp] theorem State.fetched_bl (s : State) (w : Word) : (s.fetched w).bl = s.bl := rfl
@[simp] theorem State.fetched_cl (s : State) (w : Word) : (s.fetched w).cl = s.cl := rfl
@[simp] theorem State.fetched_dl (s : State) (w : Word) : (s.fetched w).dl = s.dl := rfl
@[simp] theorem State.fetched_pc (s : State) (w : Word) : (s.fetched w).pc = s.pc := rfl
@[simp] theorem State.fetched_flags (s : State) (w : Word) : (s.fetched w).flags = s.flags := rfl
@[simp] theorem State.fetched_halted (s : State) (w : Word) : (s.fetched w).halted = s.halted := rfl
@[simp] theorem State.fetched_ir (s : State) (w : Word) : (s.fetched w).ir = w := rfl
@[simp] theorem State.fetched_rl (s : State) (w : Word) : (s.fetched w).rl = s.rl := rfl
@[simp] theorem State.fetched_rh (s : State) (w : Word) : (s.fetched w).rh = s.rh := rfl
@[simp] theorem State.fetched_clock (s : State) (w : Word) : (s.fetched w).clock = Config.anyClock s.draws := rfl
@[simp] theorem State.fetched_imem (s : State) (w : Word) : (s.fetched w).imem = s.imem := rfl
@[simp] theorem State.fetched_draws (s : State) (w : Word) : (s.fetched w).draws = s.draws + 1 := rfl
@[simp] theorem State.fetched_reg (s : State) (w : Word) (q : Reg) : (s.fetched w).reg q = s.reg q := by cases q <;> rfl

@[simp] theorem State.setReg_pc (s : State) (d : Reg) (v : Byte) : (s.setReg d v).pc = s.pc := by cases d <;> rfl
@[simp] theorem State.setReg_flags (s : State) (d : Reg) (v : Byte) : (s.setReg d v).flags = s.flags := by cases d <;> rfl
@[simp] theorem State.setReg_halted (s : State) (d : Reg) (v : Byte) : (s.setReg d v).halted = s.halted := by cases d <;> rfl
@[simp] theorem State.setReg_ir (s : State) (d : Reg) (v : Byte) : (s.setReg d v).ir = s.ir := by cases d <;> rfl
@[simp] theorem State.setReg_rl (s : State) (d : Reg) (v : Byte) : (s.setReg d v).rl = s.rl := by cases d <;> rfl
@[simp] theorem State.setReg_rh (s : State) (d : Reg) (v : Byte) : (s.setReg d v).rh = s.rh := by cases d <;> rfl
@[simp] theorem State.setReg_clock (s : State) (d : Reg) (v : Byte) : (s.setReg d v).clock = s.clock := by cases d <;> rfl
@[simp] theorem State.setReg_imem (s : State) (d : Reg) (v : Byte) : (s.setReg d v).imem = s.imem := by cases d <;> rfl
@[simp] theorem State.setReg_draws (s : State) (d : Reg) (v : Byte) : (s.setReg d v).draws = s.draws := by cases d <;> rfl

/-- A register reads as written, every other one as before. -/
theorem State.setReg_reg (s : State) (d : Reg) (v : Byte) (q : Reg) :
    (s.setReg d v).reg q = if q = d then v else s.reg q := by
  cases d <;> cases q <;> rfl

@[simp] theorem State.setReg_reg_same (s : State) (d : Reg) (v : Byte) : (s.setReg d v).reg d = v := by
  simp [State.setReg_reg]

@[simp] theorem State.setReg_reg_other (s : State) {d q : Reg} (v : Byte) (h : q ≠ d) :
    (s.setReg d v).reg q = s.reg q := by
  simp [State.setReg_reg, h]

end Sys2Proof.Machine
end

