-- ==== Sys2Proof/Laws/Operands.lean ====
section
/-! SUPPORT. One lemma for each shared operation of Machine/Operands.lean that says all it does. -/

namespace Sys2Proof.Machine

open Sys2Proof

theorem conditional_of_true {cc : Cond} {s : State} (rule : State → Result) (h : condHolds cc s.flags = true) :
    conditional cc s rule = rule s := by
  simp [conditional, h]

theorem conditional_of_false {cc : Cond} {s : State} (rule : State → Result) (h : condHolds cc s.flags = false) :
    conditional cc s rule = .next s.advance := by
  simp [conditional, h]

/-- A conditional instruction that answers a state either did what its rule says or only advanced. -/
theorem conditional_next {cc : Cond} {s t : State} {rule : State → Result} (h : conditional cc s rule = .next t) :
    (condHolds cc s.flags = true ∧ rule s = .next t) ∨ (condHolds cc s.flags = false ∧ t = s.advance) := by
  unfold conditional at h
  split at h
  · next hc => exact .inl ⟨hc, h⟩
  · next hc => exact .inr ⟨by simpa using hc, (Host.Outcome.next.inj h).symm⟩

/-- What the two-register form with a destination writes. -/
theorem aluRegReg_spec (f : Byte → Byte → Byte × Flags) (d r : Reg) (s : State) :
    (∀ q, (aluRegReg f d r s).reg q = if q = d then (f (s.reg d) (s.reg r)).1 else s.reg q) ∧
      (aluRegReg f d r s).flags = (f (s.reg d) (s.reg r)).2 ∧ (aluRegReg f d r s).pc = s.pc + Config.pcInc ∧
      (aluRegReg f d r s).rl = s.reg d ∧ (aluRegReg f d r s).rh = s.rh ∧ (aluRegReg f d r s).imem = s.imem ∧
      (aluRegReg f d r s).halted = s.halted ∧ (aluRegReg f d r s).ir = s.ir ∧ (aluRegReg f d r s).clock = s.clock ∧
      (aluRegReg f d r s).draws = s.draws := by
  refine ⟨fun q => ?_, ?_⟩ <;> simp [aluRegReg, State.setReg_reg]

/-- What the two-register form without a destination writes. -/
theorem compareRegReg_spec (f : Byte → Byte → Byte × Flags) (d r : Reg) (s : State) :
    (∀ q, (compareRegReg f d r s).reg q = s.reg q) ∧
      (compareRegReg f d r s).flags = (f (s.reg d) (s.reg r)).2 ∧ (compareRegReg f d r s).pc = s.pc + Config.pcInc ∧
      (compareRegReg f d r s).rl = s.reg d ∧ (compareRegReg f d r s).rh = s.rh ∧
      (compareRegReg f d r s).imem = s.imem ∧ (compareRegReg f d r s).halted = s.halted ∧
      (compareRegReg f d r s).ir = s.ir ∧ (compareRegReg f d r s).clock = s.clock ∧
      (compareRegReg f d r s).draws = s.draws := by
  refine ⟨fun q => ?_, ?_⟩ <;> simp [compareRegReg]

/-- What the register and immediate form with a destination writes. -/
theorem aluRegImm_spec (f : Byte → Byte → Byte × Flags) (d : Reg) (v : Byte) (s : State) :
    (∀ q, (aluRegImm f d v s).reg q = if q = d then (f (s.reg d) v).1 else s.reg q) ∧
      (aluRegImm f d v s).flags = (f (s.reg d) v).2 ∧ (aluRegImm f d v s).pc = s.pc + Config.pcInc ∧
      (aluRegImm f d v s).rl = s.rl ∧ (aluRegImm f d v s).rh = s.rh ∧ (aluRegImm f d v s).imem = s.imem ∧
      (aluRegImm f d v s).halted = s.halted ∧ (aluRegImm f d v s).ir = s.ir ∧ (aluRegImm f d v s).clock = s.clock ∧
      (aluRegImm f d v s).draws = s.draws := by
  refine ⟨fun q => ?_, ?_⟩ <;> simp [aluRegImm, State.setReg_reg]

/-- What the register and immediate form without a destination writes. -/
theorem compareRegImm_spec (f : Byte → Byte → Byte × Flags) (d : Reg) (v : Byte) (s : State) :
    (∀ q, (compareRegImm f d v s).reg q = s.reg q) ∧
      (compareRegImm f d v s).flags = (f (s.reg d) v).2 ∧ (compareRegImm f d v s).pc = s.pc + Config.pcInc ∧
      (compareRegImm f d v s).rl = s.rl ∧ (compareRegImm f d v s).rh = s.rh ∧
      (compareRegImm f d v s).imem = s.imem ∧ (compareRegImm f d v s).halted = s.halted ∧
      (compareRegImm f d v s).ir = s.ir ∧ (compareRegImm f d v s).clock = s.clock ∧
      (compareRegImm f d v s).draws = s.draws := by
  refine ⟨fun q => ?_, ?_⟩ <;> simp [compareRegImm]

/-- What the one-register form writes. -/
theorem aluReg_spec (f : Byte → Byte × Flags) (d : Reg) (s : State) :
    (∀ q, (aluReg f d s).reg q = if q = d then (f (s.reg d)).1 else s.reg q) ∧
      (aluReg f d s).flags = (f (s.reg d)).2 ∧ (aluReg f d s).pc = s.pc + Config.pcInc ∧
      (aluReg f d s).rl = s.rl ∧ (aluReg f d s).rh = s.rh ∧ (aluReg f d s).imem = s.imem ∧
      (aluReg f d s).halted = s.halted ∧ (aluReg f d s).ir = s.ir ∧ (aluReg f d s).clock = s.clock ∧
      (aluReg f d s).draws = s.draws := by
  refine ⟨fun q => ?_, ?_⟩ <;> simp [aluReg, State.setReg_reg]

/-- What MUL and DIV write: two registers, or a free value where both operands are one register. -/
theorem lowHigh_spec (low high : Byte) (d r : Reg) (s : State) :
    (∀ q, (lowHigh low high d r s).reg q =
      if d = r then (if q = d then Config.anyByte s.draws else s.reg q)
      else if q = r then high else if q = d then low else s.reg q) ∧
      (lowHigh low high d r s).flags = highPartFlags s.draws high ∧
      (lowHigh low high d r s).pc = s.pc + Config.pcInc ∧ (lowHigh low high d r s).rl = low ∧
      (lowHigh low high d r s).rh = high ∧ (lowHigh low high d r s).imem = s.imem ∧
      (lowHigh low high d r s).halted = s.halted ∧ (lowHigh low high d r s).ir = s.ir ∧
      (lowHigh low high d r s).clock = s.clock ∧ (lowHigh low high d r s).draws = s.draws + 1 := by
  by_cases h : d = r
  · refine ⟨fun q => ?_, ?_⟩ <;> simp [lowHigh, h, State.setReg_reg]
  · refine ⟨fun q => ?_, ?_⟩ <;> simp [lowHigh, h, State.setReg_reg]

end Sys2Proof.Machine
end

