-- ==== Sys2Proof/Laws/Exec.lean ====
section
/-! SUPPORT. What `exec` answers for each instruction when its condition holds, in the shared operations; and for every
instruction when it does not. -/

namespace Sys2Proof.Machine

open Sys2Proof

/-- Every instruction is conditional on its own condition. -/
theorem exec_of_false {i : Instr} {s : State} (h : condHolds i.cond s.flags = false) : exec i s = .next s.advance := by
  cases i <;> exact if_neg (Bool.eq_false_iff.1 h)

theorem exec_nop {cc : Cond} {s : State} (h : condHolds cc s.flags = true) :
    exec (.nop cc) s =
      .next s.advance :=
  if_pos h

theorem exec_hlt {cc : Cond} {s : State} (h : condHolds cc s.flags = true) :
    exec (.hlt cc) s =
      .next (s.setHalted.setPc (Config.anyPc s.draws)).drawn :=
  if_pos h

theorem exec_jmpLabel {cc : Cond} (label : Pc) {s : State} (h : condHolds cc s.flags = true) :
    exec (.jmpLabel cc label) s =
      .next (s.setPc label) :=
  if_pos h

theorem exec_jmpReg {cc : Cond} (d : Reg) {s : State} (h : condHolds cc s.flags = true) :
    exec (.jmpReg cc d) s =
      .next (s.setPc (s.reg d)) :=
  if_pos h

theorem exec_movRI {cc : Cond} (d : Reg) (v : Byte) {s : State} (h : condHolds cc s.flags = true) :
    exec (.movRI cc d v) s =
      .next (s.setReg d v).advance :=
  if_pos h

theorem exec_movRR {cc : Cond} (d r : Reg) {s : State} (h : condHolds cc s.flags = true) :
    exec (.movRR cc d r) s =
      .next (s.setReg d (s.reg r)).advance :=
  if_pos h

theorem exec_mulRR {cc : Cond} (d r : Reg) {s : State} (h : condHolds cc s.flags = true) :
    exec (.mulRR cc d r) s =
      .next (lowHigh (BitVec.ofNat 8 ((s.reg d).toNat * (s.reg r).toNat))
        (BitVec.ofNat 8 ((s.reg d).toNat * (s.reg r).toNat / 256)) d r s) :=
  if_pos h

theorem exec_divRR {cc : Cond} (d r : Reg) {s : State} (h : condHolds cc s.flags = true) :
    exec (.divRR cc d r) s =
      if s.reg r = 0#8 then .refused .divideByZero
        else .next (lowHigh (s.reg d / s.reg r) (s.reg d % s.reg r) d r s) :=
  if_pos h

theorem exec_andRR {cc : Cond} (d r : Reg) {s : State} (h : condHolds cc s.flags = true) :
    exec (.andRR cc d r) s =
      .next (aluRegReg (logic8 .and s.draws) d r s).drawn :=
  if_pos h

theorem exec_andnRR {cc : Cond} (d r : Reg) {s : State} (h : condHolds cc s.flags = true) :
    exec (.andnRR cc d r) s =
      .next (aluRegReg (logic8 .andn s.draws) d r s).drawn :=
  if_pos h

theorem exec_orRR {cc : Cond} (d r : Reg) {s : State} (h : condHolds cc s.flags = true) :
    exec (.orRR cc d r) s =
      .next (aluRegReg (logic8 .or s.draws) d r s).drawn :=
  if_pos h

theorem exec_norRR {cc : Cond} (d r : Reg) {s : State} (h : condHolds cc s.flags = true) :
    exec (.norRR cc d r) s =
      .next (aluRegReg (logic8 .nor s.draws) d r s).drawn :=
  if_pos h

theorem exec_xorRR {cc : Cond} (d r : Reg) {s : State} (h : condHolds cc s.flags = true) :
    exec (.xorRR cc d r) s =
      .next (aluRegReg (logic8 .xor s.draws) d r s).drawn :=
  if_pos h

theorem exec_xnorRR {cc : Cond} (d r : Reg) {s : State} (h : condHolds cc s.flags = true) :
    exec (.xnorRR cc d r) s =
      .next (aluRegReg (logic8 .xnor s.draws) d r s).drawn :=
  if_pos h

theorem exec_addRR {cc : Cond} (d r : Reg) {s : State} (h : condHolds cc s.flags = true) :
    exec (.addRR cc d r) s =
      .next (aluRegReg add8 d r s) :=
  if_pos h

theorem exec_subRR {cc : Cond} (d r : Reg) {s : State} (h : condHolds cc s.flags = true) :
    exec (.subRR cc d r) s =
      .next (aluRegReg sub8 d r s) :=
  if_pos h

theorem exec_cmpRI {cc : Cond} (d : Reg) (v : Byte) {s : State} (h : condHolds cc s.flags = true) :
    exec (.cmpRI cc d v) s =
      .next (compareRegImm sub8 d v s) :=
  if_pos h

theorem exec_cmpRR {cc : Cond} (d r : Reg) {s : State} (h : condHolds cc s.flags = true) :
    exec (.cmpRR cc d r) s =
      .next (compareRegReg sub8 d r s) :=
  if_pos h

theorem exec_testRI {cc : Cond} (d : Reg) (v : Byte) {s : State} (h : condHolds cc s.flags = true) :
    exec (.testRI cc d v) s =
      .next (compareRegImm (logic8 .and s.draws) d v s).drawn :=
  if_pos h

theorem exec_testRR {cc : Cond} (d r : Reg) {s : State} (h : condHolds cc s.flags = true) :
    exec (.testRR cc d r) s =
      .next (compareRegReg (logic8 .and s.draws) d r s).drawn :=
  if_pos h

theorem exec_shrRR {cc : Cond} (d r : Reg) {s : State} (h : condHolds cc s.flags = true) :
    exec (.shrRR cc d r) s =
      .next (aluRegReg (shift8 .shr s.draws) d r s).drawn :=
  if_pos h

theorem exec_shlRR {cc : Cond} (d r : Reg) {s : State} (h : condHolds cc s.flags = true) :
    exec (.shlRR cc d r) s =
      .next (aluRegReg (shift8 .shl s.draws) d r s).drawn :=
  if_pos h

theorem exec_sarRR {cc : Cond} (d r : Reg) {s : State} (h : condHolds cc s.flags = true) :
    exec (.sarRR cc d r) s =
      .next (aluRegReg (shift8 .sar s.draws) d r s).drawn :=
  if_pos h

theorem exec_andRI {cc : Cond} (d : Reg) (v : Byte) {s : State} (h : condHolds cc s.flags = true) :
    exec (.andRI cc d v) s =
      .next (aluRegImm (logic8 .and s.draws) d v s).drawn :=
  if_pos h

theorem exec_andnRI {cc : Cond} (d : Reg) (v : Byte) {s : State} (h : condHolds cc s.flags = true) :
    exec (.andnRI cc d v) s =
      .next (aluRegImm (logic8 .andn s.draws) d v s).drawn :=
  if_pos h

theorem exec_orRI {cc : Cond} (d : Reg) (v : Byte) {s : State} (h : condHolds cc s.flags = true) :
    exec (.orRI cc d v) s =
      .next (aluRegImm (logic8 .or s.draws) d v s).drawn :=
  if_pos h

theorem exec_norRI {cc : Cond} (d : Reg) (v : Byte) {s : State} (h : condHolds cc s.flags = true) :
    exec (.norRI cc d v) s =
      .next (aluRegImm (logic8 .nor s.draws) d v s).drawn :=
  if_pos h

theorem exec_xorRI {cc : Cond} (d : Reg) (v : Byte) {s : State} (h : condHolds cc s.flags = true) :
    exec (.xorRI cc d v) s =
      .next (aluRegImm (logic8 .xor s.draws) d v s).drawn :=
  if_pos h

theorem exec_xnorRI {cc : Cond} (d : Reg) (v : Byte) {s : State} (h : condHolds cc s.flags = true) :
    exec (.xnorRI cc d v) s =
      .next (aluRegImm (logic8 .xnor s.draws) d v s).drawn :=
  if_pos h

theorem exec_addRI {cc : Cond} (d : Reg) (v : Byte) {s : State} (h : condHolds cc s.flags = true) :
    exec (.addRI cc d v) s =
      .next (aluRegImm add8 d v s) :=
  if_pos h

theorem exec_subRI {cc : Cond} (d : Reg) (v : Byte) {s : State} (h : condHolds cc s.flags = true) :
    exec (.subRI cc d v) s =
      .next (aluRegImm sub8 d v s) :=
  if_pos h

theorem exec_notR {cc : Cond} (d : Reg) {s : State} (h : condHolds cc s.flags = true) :
    exec (.notR cc d) s =
      .next (s.setReg d (~~~(s.reg d))).advance :=
  if_pos h

theorem exec_negR {cc : Cond} (d : Reg) {s : State} (h : condHolds cc s.flags = true) :
    exec (.negR cc d) s =
      .next (aluReg (sub8 0#8) d s) :=
  if_pos h

theorem exec_incR {cc : Cond} (d : Reg) {s : State} (h : condHolds cc s.flags = true) :
    exec (.incR cc d) s =
      .next (aluReg (fun a => ((add8 a 1#8).1, keepCarry s.flags (add8 a 1#8).2)) d s) :=
  if_pos h

theorem exec_decR {cc : Cond} (d : Reg) {s : State} (h : condHolds cc s.flags = true) :
    exec (.decR cc d) s =
      .next (aluReg (fun a => ((sub8 a 1#8).1, keepCarry s.flags (sub8 a 1#8).2)) d s) :=
  if_pos h

theorem exec_shrRI {cc : Cond} (d : Reg) (v : Byte) {s : State} (h : condHolds cc s.flags = true) :
    exec (.shrRI cc d v) s =
      .next (aluRegImm (shift8 .shr s.draws) d v s).drawn :=
  if_pos h

theorem exec_shlRI {cc : Cond} (d : Reg) (v : Byte) {s : State} (h : condHolds cc s.flags = true) :
    exec (.shlRI cc d v) s =
      .next (aluRegImm (shift8 .shl s.draws) d v s).drawn :=
  if_pos h

theorem exec_sarRI {cc : Cond} (d : Reg) (v : Byte) {s : State} (h : condHolds cc s.flags = true) :
    exec (.sarRI cc d v) s =
      .next (aluRegImm (shift8 .sar s.draws) d v s).drawn :=
  if_pos h

theorem exec_mirrorR {cc : Cond} (d : Reg) {s : State} (h : condHolds cc s.flags = true) :
    exec (.mirrorR cc d) s =
      .next (aluReg (fun a => (mirror8 a, anyFlags s.draws)) d s).drawn :=
  if_pos h

end Sys2Proof.Machine
end

