-- ==== Sys2Proof/Laws/Flags.lean ====
section
/-! SUPPORT. One lemma for each result and flag function of Machine/Flags.lean, in the terms of Safety. -/

namespace Sys2Proof.Machine

open Sys2Proof

/-- Bit 7 is the sign of the unsigned reading. -/
theorem bit7_eq (r : Byte) : r.getLsbD 7 = decide (128 ≤ r.toNat) := by
  have h := BitVec.msb_eq_decide r
  rw [BitVec.msb_eq_getLsbD_last] at h
  simpa using h

/-- The signed reading by the unsigned one. -/
theorem toInt_cases (r : Byte) : r.toInt = if r.toNat < 128 then (r.toNat : Int) else (r.toNat : Int) - 256 := by
  rw [BitVec.toInt_eq_toNat_cond]
  split <;> split <;> omega

theorem zeroFlag_iff (r : Byte) : zeroFlag r = true ↔ r.toNat = 0 := by
  simp [zeroFlag, ← BitVec.toNat_inj]

theorem signFlag_iff (r : Byte) : signFlag r = true ↔ r.toInt < 0 := by
  have h := r.isLt
  rw [signFlag, bit7_eq, toInt_cases]
  split <;> simp <;> omega

theorem parityFlag_iff (r : Byte) : parityFlag r = true ↔ onesIn r % 2 = 0 := by
  revert r
  unfold onesIn parityFlag
  decide

/-- Flags whose ZF, SF and PF are those of `r`. -/
theorem resultFlags_of {r : Byte} {f : Flags} (hz : f.zf = zeroFlag r) (hs : f.sf = signFlag r)
    (hp : f.pf = parityFlag r) : ResultFlags r f :=
  ⟨hz ▸ zeroFlag_iff r, hs ▸ signFlag_iff r, hp ▸ parityFlag_iff r⟩

theorem add8_toNat (a b : Byte) : (add8 a b).1.toNat = (a.toNat + b.toNat) % 256 := by
  simp [add8]

theorem add8_flags (a b : Byte) :
    AddCarry a b (add8 a b).2 ∧ AddFlagsButCarry a b (add8 a b).1 (add8 a b).2 := by
  have ha := a.isLt
  have hb := b.isLt
  refine ⟨decide_eq_true_iff, decide_eq_true_iff, ?_, resultFlags_of rfl rfl rfl⟩
  simp only [add8, bit7_eq, toInt_cases, BitVec.toNat_ofNat, Bool.and_eq_true, beq_iff_eq, bne_iff_ne, ne_eq, decide_eq_decide]
  split <;> split <;> omega

theorem sub8_toNat (a b : Byte) : (sub8 a b).1.toNat = (256 + a.toNat - b.toNat) % 256 := by
  have hb := b.isLt
  simp only [sub8, BitVec.toNat_ofInt]
  omega

theorem sub8_fst (a b : Byte) : (sub8 a b).1 = a - b := by
  have ha := a.isLt
  have hb := b.isLt
  apply BitVec.eq_of_toNat_eq
  rw [sub8_toNat, BitVec.toNat_sub]
  omega

theorem sub8_flags (a b : Byte) :
    SubBorrow a b (sub8 a b).2 ∧ SubFlagsButCarry a b (sub8 a b).1 (sub8 a b).2 := by
  have ha := a.isLt
  have hb := b.isLt
  refine ⟨decide_eq_true_iff, decide_eq_true_iff, ?_, resultFlags_of rfl rfl rfl⟩
  have hr := sub8_toNat a b
  have hv : (sub8 a b).2.vf =
      (a.getLsbD 7 != b.getLsbD 7 && (sub8 a b).1.getLsbD 7 != a.getLsbD 7) := rfl
  simp only [hv, bit7_eq, toInt_cases, hr, Bool.and_eq_true, bne_iff_ne, ne_eq, decide_eq_decide]
  split <;> split <;> omega

theorem logic8_flags (op : LogicOp) (k : Nat) (a b : Byte) : LogicalFlags (logic8 op k a b).1 (logic8 op k a b).2 :=
  ⟨rfl, rfl, resultFlags_of rfl rfl rfl⟩

/-- A shift by 0 gives the operand back, with its ZF, SF and PF. -/
theorem shift8_zero (op : ShiftOp) (k : Nat) {a n : Byte} (h : n.toNat = 0) :
    (shift8 op k a n).1 = a ∧ ResultFlags a (shift8 op k a n).2 := by
  simp only [shift8, h, if_true]
  exact ⟨trivial, resultFlags_of rfl rfl rfl⟩

/-- A shift by 1 to 7: the result, the last bit out, and the result's ZF, SF and PF. -/
theorem shift8_small (op : ShiftOp) (k : Nat) {a n : Byte} (h : 1 ≤ n.toNat ∧ n.toNat ≤ 7) :
    (shift8 op k a n).1 = shiftResult op a n.toNat ∧ (shift8 op k a n).2.cf = shiftCarry op a n.toNat ∧
      ResultFlags (shift8 op k a n).1 (shift8 op k a n).2 := by
  have h0 : ¬n.toNat = 0 := by omega
  have h8 : n.toNat < 8 := by omega
  simp only [shift8, h0, h8, if_true, if_false]
  exact ⟨trivial, trivial, resultFlags_of rfl rfl rfl⟩

/-- Bit `k` of a mirrored byte is bit `7 - k`. -/
theorem mirror8_bit (a : Byte) {k : Nat} (h : k < 8) : (mirror8 a).getLsbD k = a.getLsbD (7 - k) := by
  simp [mirror8, h]

/-- The signed conditions, VF being the overflow of the difference (R17). -/
theorem sub8_conditions (a b : Byte) : ((sub8 a b).2.sf ^^ (sub8 a b).2.vf) = decide (a.toInt < b.toInt) := by
  have ha := a.isLt
  have hb := b.isLt
  have hr := sub8_toNat a b
  have hv : (sub8 a b).2.vf =
      (a.getLsbD 7 != b.getLsbD 7 && (sub8 a b).1.getLsbD 7 != a.getLsbD 7) := rfl
  have hs : (sub8 a b).2.sf = (sub8 a b).1.getLsbD 7 := rfl
  rw [hv, hs, bit7_eq, bit7_eq, bit7_eq, hr, toInt_cases, toInt_cases]
  by_cases h1 : 128 ≤ a.toNat <;> by_cases h2 : 128 ≤ b.toNat <;>
    by_cases h3 : 128 ≤ (256 + a.toNat - b.toNat) % 256 <;> simp [h1, h2, h3] <;> split <;> split <;> omega

end Sys2Proof.Machine
end

