-- ==== Sys2Proof/Laws/Memory.lean ====
section
/-! SUPPORT. The laws of the instruction memory: reading after writing, and that every operation keeps the canonical form. -/

namespace Sys2Proof.Machine

open Sys2Proof

theorem Memory.read_insert (m : Memory) (a : Nat) (b : Byte) (x : Nat) :
    Memory.read (Memory.insert m a b) x = if x = a then some b else Memory.read m x := by
  induction m with
  | nil => grind [Memory.insert, Memory.read]
  | cons c m ih =>
    obtain ⟨k, v⟩ := c
    grind [Memory.insert, Memory.read]

/-- A write is read back at its address if that lies inside the instruction memory; every other address reads as before. -/
theorem Memory.read_write (m : Memory) (a : Nat) (b : Byte) (x : Nat) :
    Memory.read (Memory.write m a b) x = if x = a ∧ a < Config.imemBytes then some b else Memory.read m x := by
  by_cases h : a < Config.imemBytes <;> simp [Memory.write, h, Memory.read_insert]

theorem Memory.mem_insert {m : Memory} {a : Nat} {b : Byte} {x : Host.Cell} (h : x ∈ Memory.insert m a b) :
    x = (a, b) ∨ x ∈ m := by
  induction m with
  | nil => simpa [Memory.insert] using h
  | cons c m ih =>
    obtain ⟨k, v⟩ := c
    simp only [Memory.insert] at h
    split_ifs at h <;> simp only [List.mem_cons] at h ⊢
    · tauto
    · tauto
    · rcases h with h | h
      · tauto
      · rcases ih h with h | h <;> tauto

theorem Memory.insert_rising {m : Memory} (a : Nat) (b : Byte) (h : m.Pairwise (fun x y => x.1 < y.1)) :
    (Memory.insert m a b).Pairwise (fun x y => x.1 < y.1) := by
  induction m with
  | nil => simp [Memory.insert]
  | cons c m ih =>
    obtain ⟨k, v⟩ := c
    rw [List.pairwise_cons] at h
    simp only [Memory.insert]
    split_ifs with h1 h2
    · refine List.pairwise_cons.2 ⟨?_, List.pairwise_cons.2 h⟩
      intro x hx
      rcases List.mem_cons.1 hx with rfl | hx
      · exact h1
      · exact Nat.lt_trans h1 (h.1 x hx)
    · exact List.pairwise_cons.2 ⟨fun x hx => h2 ▸ h.1 x hx, h.2⟩
    · refine List.pairwise_cons.2 ⟨fun x hx => ?_, ih h.2⟩
      rcases Memory.mem_insert hx with rfl | hx
      · show k < a
        omega
      · exact h.1 x hx

/-- A write keeps the canonical form. -/
theorem Memory.write_wf {m : Memory} (a : Nat) (b : Byte) (h : Memory.wf m) : Memory.wf (Memory.write m a b) := by
  by_cases ha : a < Config.imemBytes
  · simp only [Memory.write, ha, if_true]
    refine ⟨Memory.insert_rising a b h.1, fun x hx => ?_⟩
    rcases Memory.mem_insert hx with rfl | hx
    · exact ha
    · exact h.2 x hx
  · simpa [Memory.write, ha] using h

/-- A load keeps the canonical form. -/
theorem Memory.load_wf {m : Memory} (a : Nat) (bs : List Byte) (h : Memory.wf m) : Memory.wf (Memory.load m a bs) := by
  induction bs generalizing m a with
  | nil => exact h
  | cons b bs ih => exact ih (a + 1) (Memory.write_wf a b h)

/-- A stored word keeps the canonical form. -/
theorem Memory.writeWord_wf {m : Memory} (p : Pc) (w : Word) (h : Memory.wf m) : Memory.wf (Memory.writeWord m p w) :=
  Memory.load_wf _ _ h

/-- What every address reads as after a load. -/
theorem Memory.read_load (m : Memory) (a : Nat) (bs : List Byte) (x : Nat) :
    Memory.read (Memory.load m a bs) x =
      if a ≤ x ∧ x < a + bs.length ∧ x < Config.imemBytes then bs[x - a]? else Memory.read m x := by
  induction bs generalizing m a with
  | nil => simp [Memory.load, show ¬(a ≤ x ∧ x < a ∧ x < Config.imemBytes) by omega]
  | cons b bs ih =>
    simp only [Memory.load, ih, List.length_cons, Memory.read_write]
    by_cases h1 : x = a
    · subst h1
      by_cases h2 : x < Config.imemBytes <;> simp [h2]
    · by_cases h2 : a + 1 ≤ x ∧ x < a + 1 + bs.length ∧ x < Config.imemBytes
      · have h3 : a ≤ x ∧ x < a + (bs.length + 1) ∧ x < Config.imemBytes := by omega
        have h4 : x - a = (x - (a + 1)) + 1 := by omega
        rw [if_pos h2, if_pos h3, h4, List.getElem?_cons_succ]
      · have h3 : ¬(a ≤ x ∧ x < a + (bs.length + 1) ∧ x < Config.imemBytes) := by omega
        rw [if_neg h2, if_neg h3, if_neg (fun h => h1 h.1)]

/-- A byte that has been loaded is fetched as it was loaded. -/
theorem Memory.byteAt_of_read {m : Memory} {a : Nat} {b : Byte} (h : Memory.read m a = some b) : Memory.byteAt m a = b := by
  simp [Memory.byteAt, h]

/-- A byte that nothing has loaded has its launch value (R44, R45). -/
theorem Memory.byteAt_of_unloaded {m : Memory} {a : Nat} (h : Memory.read m a = none) :
    Memory.byteAt m a = Config.imemInit a := by
  simp [Memory.byteAt, h]

/-- Memories that have the same bytes loaded have the same words. -/
theorem Memory.readWord_congr {m m' : Memory} (h : ∀ a, Memory.read m a = Memory.read m' a) (p : Pc) :
    Memory.readWord m p = Memory.readWord m' p := by
  simp [Memory.readWord, Memory.byteAt, h]

/-- The memory right after reset has the canonical form, whatever the registers hold. -/
theorem State.resetWith_imem_wf (r : ResetRegs) : Memory.wf (State.resetWith r).imem := by
  simp [State.resetWith, Memory.wf]

/-- A loaded program fits, and only the memory has changed. -/
theorem State.loadProgram_spec {image : List Byte} {s t : State} (h : s.loadProgram image = some t) :
    wordAddress Config.resetPc + image.length ≤ Config.imemBytes ∧
      t = { s with imem := Memory.load s.imem (wordAddress Config.resetPc) image } := by
  unfold State.loadProgram at h
  split_ifs at h with hfit
  exact ⟨hfit, (Option.some.inj h).symm⟩

end Sys2Proof.Machine
end

