-- ==== Sys2Proof/Laws/PerInstr.lean ====
section
/-! SUPPORT. The family of lemmas with one per constructor of Instr: the decoder's operation table and the encoder's agree (R66, R67). -/

namespace Sys2Proof.Laws.OperationDecodes

open Sys2Proof

/-- The supergroup, the second byte and the arguments the encoder gives an instruction decode to that instruction. -/
def Statement (i : Instr) : Prop :=
  decodeOperation i.cond i.supergroup i.opcode i.arg1 i.arg2 = .ok i

theorem nop (cc : Cond) : Statement (.nop cc) := rfl

theorem hlt (cc : Cond) : Statement (.hlt cc) := rfl

theorem jmpLabel (cc : Cond) (label : Pc) : Statement (.jmpLabel cc label) := rfl

theorem jmpReg (cc : Cond) (d : Reg) : Statement (.jmpReg cc d) := by
  show decodeR d.code (.jmpReg cc) = _
  simp [decodeR]

theorem movRI (cc : Cond) (d : Reg) (v : Byte) : Statement (.movRI cc d v) := by
  show decodeRI d.code v (.movRI cc) = _
  simp [decodeRI]

theorem movRR (cc : Cond) (d r : Reg) : Statement (.movRR cc d r) := by
  show decodeRR d.code r.code (.movRR cc) = _
  simp [decodeRR]

theorem mulRR (cc : Cond) (d r : Reg) : Statement (.mulRR cc d r) := by
  show decodeRR d.code r.code (.mulRR cc) = _
  simp [decodeRR]

theorem divRR (cc : Cond) (d r : Reg) : Statement (.divRR cc d r) := by
  show decodeRR d.code r.code (.divRR cc) = _
  simp [decodeRR]

theorem andRR (cc : Cond) (d r : Reg) : Statement (.andRR cc d r) := by
  show decodeRR d.code r.code (.andRR cc) = _
  simp [decodeRR]

theorem andnRR (cc : Cond) (d r : Reg) : Statement (.andnRR cc d r) := by
  show decodeRR d.code r.code (.andnRR cc) = _
  simp [decodeRR]

theorem orRR (cc : Cond) (d r : Reg) : Statement (.orRR cc d r) := by
  show decodeRR d.code r.code (.orRR cc) = _
  simp [decodeRR]

theorem norRR (cc : Cond) (d r : Reg) : Statement (.norRR cc d r) := by
  show decodeRR d.code r.code (.norRR cc) = _
  simp [decodeRR]

theorem xorRR (cc : Cond) (d r : Reg) : Statement (.xorRR cc d r) := by
  show decodeRR d.code r.code (.xorRR cc) = _
  simp [decodeRR]

theorem xnorRR (cc : Cond) (d r : Reg) : Statement (.xnorRR cc d r) := by
  show decodeRR d.code r.code (.xnorRR cc) = _
  simp [decodeRR]

theorem addRR (cc : Cond) (d r : Reg) : Statement (.addRR cc d r) := by
  show decodeRR d.code r.code (.addRR cc) = _
  simp [decodeRR]

theorem subRR (cc : Cond) (d r : Reg) : Statement (.subRR cc d r) := by
  show decodeRR d.code r.code (.subRR cc) = _
  simp [decodeRR]

theorem cmpRI (cc : Cond) (d : Reg) (v : Byte) : Statement (.cmpRI cc d v) := by
  show decodeRI d.code v (.cmpRI cc) = _
  simp [decodeRI]

theorem cmpRR (cc : Cond) (d r : Reg) : Statement (.cmpRR cc d r) := by
  show decodeRR d.code r.code (.cmpRR cc) = _
  simp [decodeRR]

theorem testRI (cc : Cond) (d : Reg) (v : Byte) : Statement (.testRI cc d v) := by
  show decodeRI d.code v (.testRI cc) = _
  simp [decodeRI]

theorem testRR (cc : Cond) (d r : Reg) : Statement (.testRR cc d r) := by
  show decodeRR d.code r.code (.testRR cc) = _
  simp [decodeRR]

theorem shrRR (cc : Cond) (d r : Reg) : Statement (.shrRR cc d r) := by
  show decodeRR d.code r.code (.shrRR cc) = _
  simp [decodeRR]

theorem shlRR (cc : Cond) (d r : Reg) : Statement (.shlRR cc d r) := by
  show decodeRR d.code r.code (.shlRR cc) = _
  simp [decodeRR]

theorem sarRR (cc : Cond) (d r : Reg) : Statement (.sarRR cc d r) := by
  show decodeRR d.code r.code (.sarRR cc) = _
  simp [decodeRR]

theorem andRI (cc : Cond) (d : Reg) (v : Byte) : Statement (.andRI cc d v) := by
  show decodeRI d.code v (.andRI cc) = _
  simp [decodeRI]

theorem andnRI (cc : Cond) (d : Reg) (v : Byte) : Statement (.andnRI cc d v) := by
  show decodeRI d.code v (.andnRI cc) = _
  simp [decodeRI]

theorem orRI (cc : Cond) (d : Reg) (v : Byte) : Statement (.orRI cc d v) := by
  show decodeRI d.code v (.orRI cc) = _
  simp [decodeRI]

theorem norRI (cc : Cond) (d : Reg) (v : Byte) : Statement (.norRI cc d v) := by
  show decodeRI d.code v (.norRI cc) = _
  simp [decodeRI]

theorem xorRI (cc : Cond) (d : Reg) (v : Byte) : Statement (.xorRI cc d v) := by
  show decodeRI d.code v (.xorRI cc) = _
  simp [decodeRI]

theorem xnorRI (cc : Cond) (d : Reg) (v : Byte) : Statement (.xnorRI cc d v) := by
  show decodeRI d.code v (.xnorRI cc) = _
  simp [decodeRI]

theorem addRI (cc : Cond) (d : Reg) (v : Byte) : Statement (.addRI cc d v) := by
  show decodeRI d.code v (.addRI cc) = _
  simp [decodeRI]

theorem subRI (cc : Cond) (d : Reg) (v : Byte) : Statement (.subRI cc d v) := by
  show decodeRI d.code v (.subRI cc) = _
  simp [decodeRI]

theorem notR (cc : Cond) (d : Reg) : Statement (.notR cc d) := by
  show decodeR d.code (.notR cc) = _
  simp [decodeR]

theorem negR (cc : Cond) (d : Reg) : Statement (.negR cc d) := by
  show decodeR d.code (.negR cc) = _
  simp [decodeR]

theorem incR (cc : Cond) (d : Reg) : Statement (.incR cc d) := by
  show decodeR d.code (.incR cc) = _
  simp [decodeR]

theorem decR (cc : Cond) (d : Reg) : Statement (.decR cc d) := by
  show decodeR d.code (.decR cc) = _
  simp [decodeR]

theorem shrRI (cc : Cond) (d : Reg) (v : Byte) : Statement (.shrRI cc d v) := by
  show decodeRI d.code v (.shrRI cc) = _
  simp [decodeRI]

theorem shlRI (cc : Cond) (d : Reg) (v : Byte) : Statement (.shlRI cc d v) := by
  show decodeRI d.code v (.shlRI cc) = _
  simp [decodeRI]

theorem sarRI (cc : Cond) (d : Reg) (v : Byte) : Statement (.sarRI cc d v) := by
  show decodeRI d.code v (.sarRI cc) = _
  simp [decodeRI]

theorem mirrorR (cc : Cond) (d : Reg) : Statement (.mirrorR cc d) := by
  show decodeR d.code (.mirrorR cc) = _
  simp [decodeR]

end Sys2Proof.Laws.OperationDecodes
end

