-- ==== Sys2Proof/Tests/Slice0.lean ====
section
/-! SUPPORT. Tests on words and values of spec/95_test_vectors.md (its numbers E1 to E39, V1 to V33, T1 to T30 and the tables of its
sections 2.2 to 2.16), the smoke test of WellFormed, and for every statement with hypotheses a witness that meets them. -/

namespace Sys2Proof.Tests

open Sys2Proof Sys2Proof.Machine

/-- Six flags in the order of FLAGS: CF PF VF AF ZF SF. -/
def flags (cf pf vf af zf sf : Bool) : Flags := { cf := cf, pf := pf, vf := vf, af := af, zf := zf, sf := sf }

/-- No flag set. -/
def clear : Flags := flags false false false false false false

/-- ZF set. -/
def zero : Flags := flags false false false false true false

/-- ZF and SF set, as no comparison leaves them. -/
def mixed : Flags := flags true false true false true true

/-- A machine with these registers and flags. -/
def machine (al bl cl dl : Byte) (f : Flags) : State :=
  { State.reset with al := al, bl := bl, cl := cl, dl := dl, flags := f }

/-- The machine with one word where it fetches. -/
def State.on (s : State) (w : Word) : State := { s with imem := Memory.writeWord [] s.pc w }

/-- Part of a next state. -/
def see {α : Type} (f : State → α) : Result → Option α
  | .next t => some (f t)
  | .fault _ => none
  | .refused _ => none

/-- The reason of a refusal. -/
def refusal : Result → Option Refusal
  | .next _ => none
  | .fault _ => none
  | .refused x => some x

/-- The reason of a fault. -/
def fault : Result → Option Fault
  | .next _ => none
  | .fault x => some x
  | .refused _ => none

/-- The flags with a value after an operation whose AF is free. -/
def butAf (f : Flags) : List Bool := [f.cf, f.pf, f.vf, f.zf, f.sf]

/-- The flags with a value after a shift: AF and VF are free. -/
def shiftFlags (f : Flags) : List Bool := [f.cf, f.pf, f.zf, f.sf]

/-! ### Decoding and encoding: E1 to E39 -/

theorem test_word_nop : decodeWord 0x00000000#32 = .ok (.nop .none) ∧ encode (.nop .none) = 0x00000000#32 := by decide

theorem test_word_hlt : decodeWord 0x00010000#32 = .ok (.hlt .none) ∧ encode (.hlt .none) = 0x00010000#32 := by decide

theorem test_word_jmpLabel : decodeWord 0x00022A00#32 = .ok (.jmpLabel .none 0x2A#8) ∧ encode (.jmpLabel .none 0x2A#8) = 0x00022A00#32 := by decide

theorem test_word_jmpReg : decodeWord 0x00030300#32 = .ok (.jmpReg .none .dl) ∧ encode (.jmpReg .none .dl) = 0x00030300#32 := by decide

theorem test_word_movRI : decodeWord 0x0004027F#32 = .ok (.movRI .none .cl 0x7F#8) ∧ encode (.movRI .none .cl 0x7F#8) = 0x0004027F#32 := by decide

theorem test_word_movRR : decodeWord 0x00050103#32 = .ok (.movRR .none .bl .dl) ∧ encode (.movRR .none .bl .dl) = 0x00050103#32 := by decide

theorem test_word_mulRR : decodeWord 0x00060001#32 = .ok (.mulRR .none .al .bl) ∧ encode (.mulRR .none .al .bl) = 0x00060001#32 := by decide

theorem test_word_divRR : decodeWord 0x00070203#32 = .ok (.divRR .none .cl .dl) ∧ encode (.divRR .none .cl .dl) = 0x00070203#32 := by decide

theorem test_word_andRR : decodeWord 0x01000001#32 = .ok (.andRR .none .al .bl) ∧ encode (.andRR .none .al .bl) = 0x01000001#32 := by decide

theorem test_word_andnRR : decodeWord 0x01010102#32 = .ok (.andnRR .none .bl .cl) ∧ encode (.andnRR .none .bl .cl) = 0x01010102#32 := by decide

theorem test_word_orRR : decodeWord 0x01020203#32 = .ok (.orRR .none .cl .dl) ∧ encode (.orRR .none .cl .dl) = 0x01020203#32 := by decide

theorem test_word_norRR : decodeWord 0x01030300#32 = .ok (.norRR .none .dl .al) ∧ encode (.norRR .none .dl .al) = 0x01030300#32 := by decide

theorem test_word_xorRR : decodeWord 0x01040000#32 = .ok (.xorRR .none .al .al) ∧ encode (.xorRR .none .al .al) = 0x01040000#32 := by decide

theorem test_word_xnorRR : decodeWord 0x01050100#32 = .ok (.xnorRR .none .bl .al) ∧ encode (.xnorRR .none .bl .al) = 0x01050100#32 := by decide

theorem test_word_addRR : decodeWord 0x01060002#32 = .ok (.addRR .none .al .cl) ∧ encode (.addRR .none .al .cl) = 0x01060002#32 := by decide

theorem test_word_subRR : decodeWord 0x01070301#32 = .ok (.subRR .none .dl .bl) ∧ encode (.subRR .none .dl .bl) = 0x01070301#32 := by decide

theorem test_word_cmpRI : decodeWord 0x01080010#32 = .ok (.cmpRI .none .al 0x10#8) ∧ encode (.cmpRI .none .al 0x10#8) = 0x01080010#32 := by decide

theorem test_word_cmpRR : decodeWord 0x01090001#32 = .ok (.cmpRR .none .al .bl) ∧ encode (.cmpRR .none .al .bl) = 0x01090001#32 := by decide

theorem test_word_testRI : decodeWord 0x010A0180#32 = .ok (.testRI .none .bl 0x80#8) ∧ encode (.testRI .none .bl 0x80#8) = 0x010A0180#32 := by decide

theorem test_word_testRR : decodeWord 0x010B0202#32 = .ok (.testRR .none .cl .cl) ∧ encode (.testRR .none .cl .cl) = 0x010B0202#32 := by decide

theorem test_word_shrRR : decodeWord 0x010C0001#32 = .ok (.shrRR .none .al .bl) ∧ encode (.shrRR .none .al .bl) = 0x010C0001#32 := by decide

theorem test_word_shlRR : decodeWord 0x010D0102#32 = .ok (.shlRR .none .bl .cl) ∧ encode (.shlRR .none .bl .cl) = 0x010D0102#32 := by decide

theorem test_word_sarRR : decodeWord 0x010E0302#32 = .ok (.sarRR .none .dl .cl) ∧ encode (.sarRR .none .dl .cl) = 0x010E0302#32 := by decide

theorem test_word_andRI : decodeWord 0x0110000F#32 = .ok (.andRI .none .al 0x0F#8) ∧ encode (.andRI .none .al 0x0F#8) = 0x0110000F#32 := by decide

theorem test_word_andnRI : decodeWord 0x011101FF#32 = .ok (.andnRI .none .bl 0xFF#8) ∧ encode (.andnRI .none .bl 0xFF#8) = 0x011101FF#32 := by decide

theorem test_word_orRI : decodeWord 0x01120280#32 = .ok (.orRI .none .cl 0x80#8) ∧ encode (.orRI .none .cl 0x80#8) = 0x01120280#32 := by decide

theorem test_word_norRI : decodeWord 0x01130300#32 = .ok (.norRI .none .dl 0x00#8) ∧ encode (.norRI .none .dl 0x00#8) = 0x01130300#32 := by decide

theorem test_word_xorRI : decodeWord 0x011400FF#32 = .ok (.xorRI .none .al 0xFF#8) ∧ encode (.xorRI .none .al 0xFF#8) = 0x011400FF#32 := by decide

theorem test_word_xnorRI : decodeWord 0x01150155#32 = .ok (.xnorRI .none .bl 0x55#8) ∧ encode (.xnorRI .none .bl 0x55#8) = 0x01150155#32 := by decide

theorem test_word_addRI : decodeWord 0x01160201#32 = .ok (.addRI .none .cl 0x01#8) ∧ encode (.addRI .none .cl 0x01#8) = 0x01160201#32 := by decide

theorem test_word_subRI : decodeWord 0x01170320#32 = .ok (.subRI .none .dl 0x20#8) ∧ encode (.subRI .none .dl 0x20#8) = 0x01170320#32 := by decide

theorem test_word_notR : decodeWord 0x01180000#32 = .ok (.notR .none .al) ∧ encode (.notR .none .al) = 0x01180000#32 := by decide

theorem test_word_negR : decodeWord 0x01190100#32 = .ok (.negR .none .bl) ∧ encode (.negR .none .bl) = 0x01190100#32 := by decide

theorem test_word_incR : decodeWord 0x011A0200#32 = .ok (.incR .none .cl) ∧ encode (.incR .none .cl) = 0x011A0200#32 := by decide

theorem test_word_decR : decodeWord 0x011B0300#32 = .ok (.decR .none .dl) ∧ encode (.decR .none .dl) = 0x011B0300#32 := by decide

theorem test_word_shrRI : decodeWord 0x011C0004#32 = .ok (.shrRI .none .al 0x04#8) ∧ encode (.shrRI .none .al 0x04#8) = 0x011C0004#32 := by decide

theorem test_word_shlRI : decodeWord 0x011D0101#32 = .ok (.shlRI .none .bl 0x01#8) ∧ encode (.shlRI .none .bl 0x01#8) = 0x011D0101#32 := by decide

theorem test_word_sarRI : decodeWord 0x011E0207#32 = .ok (.sarRI .none .cl 0x07#8) ∧ encode (.sarRI .none .cl 0x07#8) = 0x011E0207#32 := by decide

theorem test_word_mirrorR : decodeWord 0x011F0300#32 = .ok (.mirrorR .none .dl) ∧ encode (.mirrorR .none .dl) = 0x011F0300#32 := by decide

/-- Section 2.2: every condition before `MOV AL, BL`. -/
theorem test_conditions_on_mov :
    decodeWord 0x00050001#32 = .ok (.movRR .none .al .bl) ∧
    decodeWord 0x08050001#32 = .ok (.movRR .z .al .bl) ∧
    decodeWord 0x10050001#32 = .ok (.movRR .nz .al .bl) ∧
    decodeWord 0x20050001#32 = .ok (.movRR .s .al .bl) ∧
    decodeWord 0x30050001#32 = .ok (.movRR .ns .al .bl) ∧
    decodeWord 0x40050001#32 = .ok (.movRR .g .al .bl) ∧
    decodeWord 0x50050001#32 = .ok (.movRR .ge .al .bl) ∧
    decodeWord 0x60050001#32 = .ok (.movRR .l .al .bl) ∧
    decodeWord 0x70050001#32 = .ok (.movRR .le .al .bl) ∧
    decodeWord 0x80050001#32 = .ok (.movRR .a .al .bl) ∧
    decodeWord 0x90050001#32 = .ok (.movRR .nc .al .bl) ∧
    decodeWord 0xA0050001#32 = .ok (.movRR .c .al .bl) ∧
    decodeWord 0xB0050001#32 = .ok (.movRR .be .al .bl) ∧
    decodeWord 0xC0050001#32 = .ok (.movRR .v .al .bl) ∧
    decodeWord 0xD0050001#32 = .ok (.movRR .nv .al .bl) ∧
    decodeWord 0xE0050001#32 = .ok (.movRR .p .al .bl) ∧
    decodeWord 0xF0050001#32 = .ok (.movRR .np .al .bl) := by decide

/-- Section 2.2: every condition that can stand before `ADD AL, BL`. -/
theorem test_conditions_on_add :
    decodeWord 0x01060001#32 = .ok (.addRR .none .al .bl) ∧
    decodeWord 0x09060001#32 = .ok (.addRR .z .al .bl) ∧
    decodeWord 0x11060001#32 = .ok (.addRR .nz .al .bl) ∧
    decodeWord 0x21060001#32 = .ok (.addRR .s .al .bl) ∧
    decodeWord 0x31060001#32 = .ok (.addRR .ns .al .bl) ∧
    decodeWord 0x41060001#32 = .ok (.addRR .g .al .bl) ∧
    decodeWord 0x51060001#32 = .ok (.addRR .ge .al .bl) ∧
    decodeWord 0x61060001#32 = .ok (.addRR .l .al .bl) ∧
    decodeWord 0x71060001#32 = .ok (.addRR .le .al .bl) ∧
    decodeWord 0x81060001#32 = .ok (.addRR .a .al .bl) ∧
    decodeWord 0x91060001#32 = .ok (.addRR .nc .al .bl) ∧
    decodeWord 0xA1060001#32 = .ok (.addRR .c .al .bl) ∧
    decodeWord 0xB1060001#32 = .ok (.addRR .be .al .bl) ∧
    decodeWord 0xC1060001#32 = .ok (.addRR .v .al .bl) ∧
    decodeWord 0xD1060001#32 = .ok (.addRR .nv .al .bl) := by decide

/-- V2 to V5, V22, V24: unused argument bytes are ignored; immediates and labels take any value. -/
theorem test_unused_arguments :
    decodeWord 0x0000ABCD#32 = .ok (.nop .none) ∧ decodeWord 0x0001FFFF#32 = .ok (.hlt .none) ∧
    decodeWord 0x00020599#32 = .ok (.jmpLabel .none 0x05#8) ∧ decodeWord 0x01180277#32 = .ok (.notR .none .cl) ∧
    decodeWord 0x000403FF#32 = .ok (.movRI .none .dl 0xFF#8) ∧ decodeWord 0x00020400#32 = .ok (.jmpLabel .none 0x04#8) := by
  decide

/-- V7, V8: the two ambiguous first bytes under the three settings. -/
theorem test_hc_decode :
    decodeWordUnder .refuse 0xE1060001#32 = .error .ambiguousCondition ∧
    decodeWordUnder .fieldLayout 0xE1060001#32 = .ok (.addRR .p .al .bl) ∧
    decodeWordUnder .hcAsPrinted 0xE1060001#32 = .ok (.addRR .hc .al .bl) ∧
    decodeWordUnder .refuse 0xF1050001#32 = .error .ambiguousCondition ∧
    decodeWordUnder .fieldLayout 0xF1050001#32 = .ok (.xnorRR .np .al .bl) ∧
    decodeWordUnder .hcAsPrinted 0xF1050001#32 = .ok (.xnorRR .nhc .al .bl) := by decide

/-- V10 to V19: invalid conditions, supergroups and second bytes. -/
theorem test_invalid_encodings :
    decodeWord 0x18000000#32 = .error .invalidEncoding ∧ decodeWord 0xF8000000#32 = .error .invalidEncoding ∧
    decodeWord 0xE8000000#32 = .error .invalidEncoding ∧ decodeWord 0x02000000#32 = .error .invalidEncoding ∧
    decodeWord 0x07000000#32 = .error .invalidEncoding ∧ decodeWord 0x00100000#32 = .error .invalidEncoding ∧
    decodeWord 0x00080000#32 = .error .invalidEncoding ∧ decodeWord 0x000F0000#32 = .error .invalidEncoding ∧
    decodeWord 0x01200000#32 = .error .invalidEncoding ∧ decodeWord 0x010F0000#32 = .error .invalidEncoding := by decide

/-- V20, V21, V23, V25, V27: register codes above 3; V32, V33: the order of the reasons. -/
theorem test_invalid_registers :
    decodeWord 0x00050400#32 = .error .invalidRegister ∧ decodeWord 0x000500FF#32 = .error .invalidRegister ∧
    decodeWord 0x00030400#32 = .error .invalidRegister ∧ decodeWord 0x011A0700#32 = .error .invalidRegister ∧
    decodeWord 0x010C0004#32 = .error .invalidRegister ∧ decodeWord 0xE10F0000#32 = .error .ambiguousCondition ∧
    decodeWord 0x18050900#32 = .error .invalidEncoding := by decide

/-- The host's own question: the second aliases stand for the same words (R76), and a short table word has zeros above. -/
theorem test_table_word : decodeTableWord 32 0x011D0001 = some (.salRI .none .al 0x01#8) ∧
    decodeTableWord 32 0x01110000 = some (.nandRI .none .al 0x00#8) ∧ decodeTableWord 16 0x0000 = some (.nop .none) ∧
    decodeTableWord 32 0x18000000 = none := by decide

/-! ### WellFormed: an ill-formed instruction for each check -/

theorem test_wf_hc_needs_its_setting : (Instr.addRR .hc .al .bl).wellFormed .refuse = false ∧
    (Instr.addRR .nhc .al .bl).wellFormed .fieldLayout = false ∧ (Instr.addRR .hc .al .bl).wellFormed .hcAsPrinted = true := by
  decide

theorem test_wf_hc_needs_supergroup_1 : (Instr.movRR .hc .al .bl).wellFormed .hcAsPrinted = false ∧
    (Instr.nop .nhc).wellFormed .hcAsPrinted = false := by decide

theorem test_wf_p_on_supergroup_1 : (Instr.addRR .p .al .bl).wellFormed .refuse = false ∧
    (Instr.notR .np .al).wellFormed .hcAsPrinted = false ∧ (Instr.addRR .p .al .bl).wellFormed .fieldLayout = true ∧
    (Instr.movRR .p .al .bl).wellFormed .refuse = true := by decide

/-! ### One step of each instruction -/

/-- T3: the PC wraps. -/
theorem test_step_nop :
    see (fun t => (t.pc, t.flags)) (step (State.on ({ machine 0x01#8 0x02#8 0x03#8 0x04#8 mixed with pc := 0xFF#8 }) 0x00000000#32)) = some (0x00#8, mixed) := by decide

/-- T18: halted; a skipped HLT (T19) only advances. -/
theorem test_step_hlt :
    see (fun t => (t.halted, t.al, t.flags)) (step (State.on (machine 0x01#8 0x02#8 0x03#8 0x04#8 mixed) 0x00010000#32)) = some (true, 0x01#8, mixed) ∧
      see (fun t => (t.halted, t.pc)) (step (State.on ({ machine 0x01#8 0x02#8 0x03#8 0x04#8 clear with pc := 0x05#8 }) 0x08010000#32)) = some (false, 0x06#8) := by decide

/-- T4, T5, T6. -/
theorem test_step_jmpLabel :
    see (fun t => t.pc) (step (State.on ({ machine 0x01#8 0x02#8 0x03#8 0x04#8 clear with pc := 0x03#8 }) 0x0002FF00#32)) = some 0xFF#8 ∧
      see (fun t => t.pc) (step (State.on ({ machine 0x01#8 0x02#8 0x03#8 0x04#8 zero with pc := 0x04#8 }) 0x10020200#32)) = some 0x05#8 ∧
      see (fun t => t.pc) (step (State.on ({ machine 0x01#8 0x02#8 0x03#8 0x04#8 clear with pc := 0x04#8 }) 0x10020200#32)) = some 0x02#8 := by decide

/-- T7. -/
theorem test_step_jmpReg :
    see (fun t => t.pc) (step (State.on ({ machine 0x10#8 0x02#8 0x03#8 0x04#8 clear with pc := 0x09#8 }) 0x00030000#32)) = some 0x10#8 := by decide

/-- MOV DL, 0xFF (V22). -/
theorem test_step_movRI :
    see (fun t => (t.dl, t.flags, t.pc)) (step (State.on (machine 0x01#8 0x02#8 0x03#8 0x04#8 mixed) 0x000403FF#32)) = some (0xFF#8, mixed, 0x01#8) := by decide

/-- MOV BL, DL (E6). -/
theorem test_step_movRR :
    see (fun t => (t.bl, t.dl, t.flags)) (step (State.on (machine 0x01#8 0x02#8 0x03#8 0x04#8 mixed) 0x00050103#32)) = some (0x04#8, 0x04#8, mixed) := by decide

/-- T28; RL and RH hold the parts. -/
theorem test_step_mulRR :
    see (fun t => (t.al, t.bl, t.flags.cf, t.rl, t.rh)) (step (State.on (machine 0xFF#8 0xFF#8 0x03#8 0x04#8 clear) 0x00060001#32)) =
      some (0x01#8, 0xFE#8, true, 0x01#8, 0xFE#8) := by decide

/-- T15: CF alone is known. -/
theorem test_step_mul_same_register :
    see (fun t => (t.flags.cf, t.bl)) (step (State.on (machine 0x10#8 0x02#8 0x03#8 0x04#8 clear) 0x00060000#32)) = some (true, 0x02#8) := by decide

/-- T29. -/
theorem test_step_divRR :
    see (fun t => (t.al, t.bl, t.flags.cf, t.rl, t.rh)) (step (State.on (machine 0xFF#8 0x10#8 0x03#8 0x04#8 clear) 0x00070001#32)) =
      some (0x0F#8, 0x0F#8, true, 0x0F#8, 0x0F#8) := by decide

/-- T17, V31: refused; V30: not when skipped. -/
theorem test_step_div_by_zero :
    refusal (step (State.on (machine 0x58#8 0x00#8 0x03#8 0x04#8 clear) 0x00070001#32)) = some .divideByZero ∧
      see (fun t => (t.al, t.pc)) (step (State.on (machine 0x58#8 0x00#8 0x03#8 0x04#8 clear) 0x08070001#32)) = some (0x58#8, 0x01#8) := by decide

/-- Section 2.8, first row of AND. -/
theorem test_step_andRR :
    see (fun t => (t.al, t.bl, t.rl, butAf t.flags)) (step (State.on (machine 0xCC#8 0xAA#8 0x03#8 0x04#8 mixed) 0x01000001#32)) =
      some (0x88#8, 0xAA#8, 0xCC#8, [false, true, false, false, true]) := by decide

/-- Section 2.8, first row of ANDN. -/
theorem test_step_andnRR :
    see (fun t => (t.al, t.bl, t.rl, butAf t.flags)) (step (State.on (machine 0xCC#8 0xAA#8 0x03#8 0x04#8 mixed) 0x01010001#32)) =
      some (0x77#8, 0xAA#8, 0xCC#8, [false, true, false, false, false]) := by decide

/-- Section 2.8, first row of OR. -/
theorem test_step_orRR :
    see (fun t => (t.al, t.bl, t.rl, butAf t.flags)) (step (State.on (machine 0xCC#8 0xAA#8 0x03#8 0x04#8 mixed) 0x01020001#32)) =
      some (0xEE#8, 0xAA#8, 0xCC#8, [false, true, false, false, true]) := by decide

/-- Section 2.8, first row of NOR. -/
theorem test_step_norRR :
    see (fun t => (t.al, t.bl, t.rl, butAf t.flags)) (step (State.on (machine 0xCC#8 0xAA#8 0x03#8 0x04#8 mixed) 0x01030001#32)) =
      some (0x11#8, 0xAA#8, 0xCC#8, [false, true, false, false, false]) := by decide

/-- Section 2.8, first row of XOR. -/
theorem test_step_xorRR :
    see (fun t => (t.al, t.bl, t.rl, butAf t.flags)) (step (State.on (machine 0xCC#8 0xAA#8 0x03#8 0x04#8 mixed) 0x01040001#32)) =
      some (0x66#8, 0xAA#8, 0xCC#8, [false, true, false, false, false]) := by decide

/-- Section 2.8, first row of XNOR. -/
theorem test_step_xnorRR :
    see (fun t => (t.al, t.bl, t.rl, butAf t.flags)) (step (State.on (machine 0xCC#8 0xAA#8 0x03#8 0x04#8 mixed) 0x01050001#32)) =
      some (0x99#8, 0xAA#8, 0xCC#8, [false, true, false, false, true]) := by decide

/-- T2, and T1: the condition is false. -/
theorem test_step_addRR :
    see (fun t => (t.al, t.flags, t.pc)) (step (State.on ({ machine 0x01#8 0x02#8 0x03#8 0x04#8 zero with pc := 0x07#8 }) 0x09060001#32)) = some (0x03#8, flags false true false false false false, 0x08#8) ∧
      see (fun t => (t.al, t.flags, t.pc, t.rl)) (step (State.on ({ machine 0x01#8 0x02#8 0x03#8 0x04#8 clear with pc := 0x07#8 }) 0x09060001#32)) = some (0x01#8, clear, 0x08#8, 0x00#8) := by decide

/-- T11. -/
theorem test_step_add_same_register :
    see (fun t => (t.al, t.flags)) (step (State.on (machine 0x80#8 0x02#8 0x03#8 0x04#8 clear) 0x01060000#32)) = some (0x00#8, flags true true true false true false) := by decide

/-- Section 2.7: 0x80 - 0x01. -/
theorem test_step_subRR :
    see (fun t => (t.al, t.bl, t.flags, t.rl)) (step (State.on (machine 0x80#8 0x01#8 0x03#8 0x04#8 clear) 0x01070001#32)) = some (0x7F#8, 0x01#8, flags false false true true false false, 0x80#8) := by decide

/-- Section 2.7: 0x7F - 0xFF, nothing written. -/
theorem test_step_cmpRI :
    see (fun t => (t.al, t.flags)) (step (State.on (machine 0x7F#8 0x01#8 0x03#8 0x04#8 clear) 0x010800FF#32)) = some (0x7F#8, flags true false true false false true) := by decide

/-- T22. -/
theorem test_step_cmpRR :
    see (fun t => (t.al, t.bl, t.flags)) (step (State.on (machine 0x05#8 0x06#8 0x03#8 0x04#8 clear) 0x01090001#32)) = some (0x05#8, 0x06#8, flags true true false true false true) := by decide

/-- T23. -/
theorem test_step_testRI :
    see (fun t => (t.al, butAf t.flags)) (step (State.on (machine 0xF0#8 0x01#8 0x03#8 0x04#8 mixed) 0x010A000F#32)) = some (0xF0#8, [false, true, false, true, false]) := by decide

/-- Section 2.8: the flags of AND 0xCC, 0xAA. -/
theorem test_step_testRR :
    see (fun t => (t.al, t.bl, butAf t.flags)) (step (State.on (machine 0xCC#8 0xAA#8 0x03#8 0x04#8 mixed) 0x010B0001#32)) = some (0xCC#8, 0xAA#8, [false, true, false, false, true]) := by decide

/-- Section 2.9: SHR 0x96 by 3. -/
theorem test_step_shrRR :
    see (fun t => (t.al, t.bl, t.rl, shiftFlags t.flags)) (step (State.on (machine 0x96#8 0x03#8 0x03#8 0x04#8 clear) 0x010C0001#32)) =
      some (0x12#8, 0x03#8, 0x96#8, [true, true, false, false]) := by decide

/-- Section 2.9: SHL 0x96 by 3. -/
theorem test_step_shlRR :
    see (fun t => (t.al, t.bl, t.rl, shiftFlags t.flags)) (step (State.on (machine 0x96#8 0x03#8 0x03#8 0x04#8 clear) 0x010D0001#32)) =
      some (0xB0#8, 0x03#8, 0x96#8, [false, false, false, true]) := by decide

/-- Section 2.9: SAR 0x96 by 3. -/
theorem test_step_sarRR :
    see (fun t => (t.al, t.bl, t.rl, shiftFlags t.flags)) (step (State.on (machine 0x96#8 0x03#8 0x03#8 0x04#8 clear) 0x010E0001#32)) =
      some (0xF2#8, 0x03#8, 0x96#8, [true, false, false, true]) := by decide

/-- T12: the count is read before the write. -/
theorem test_step_shl_same_register :
    see (fun t => (t.al, shiftFlags t.flags)) (step (State.on (machine 0x03#8 0x01#8 0x03#8 0x04#8 clear) 0x010D0000#32)) = some (0x18#8, [false, true, false, false]) := by decide

/-- Section 2.8, first row of AND. -/
theorem test_step_andRI :
    see (fun t => (t.al, butAf t.flags)) (step (State.on (machine 0xCC#8 0x01#8 0x03#8 0x04#8 mixed) 0x011000AA#32)) = some (0x88#8, [false, true, false, false, true]) := by decide

/-- Section 2.8, first row of ANDN. -/
theorem test_step_andnRI :
    see (fun t => (t.al, butAf t.flags)) (step (State.on (machine 0xCC#8 0x01#8 0x03#8 0x04#8 mixed) 0x011100AA#32)) = some (0x77#8, [false, true, false, false, false]) := by decide

/-- Section 2.8, first row of OR. -/
theorem test_step_orRI :
    see (fun t => (t.al, butAf t.flags)) (step (State.on (machine 0xCC#8 0x01#8 0x03#8 0x04#8 mixed) 0x011200AA#32)) = some (0xEE#8, [false, true, false, false, true]) := by decide

/-- Section 2.8, first row of NOR. -/
theorem test_step_norRI :
    see (fun t => (t.al, butAf t.flags)) (step (State.on (machine 0xCC#8 0x01#8 0x03#8 0x04#8 mixed) 0x011300AA#32)) = some (0x11#8, [false, true, false, false, false]) := by decide

/-- Section 2.8, first row of XOR. -/
theorem test_step_xorRI :
    see (fun t => (t.al, butAf t.flags)) (step (State.on (machine 0xCC#8 0x01#8 0x03#8 0x04#8 mixed) 0x011400AA#32)) = some (0x66#8, [false, true, false, false, false]) := by decide

/-- Section 2.8, first row of XNOR. -/
theorem test_step_xnorRI :
    see (fun t => (t.al, butAf t.flags)) (step (State.on (machine 0xCC#8 0x01#8 0x03#8 0x04#8 mixed) 0x011500AA#32)) = some (0x99#8, [false, true, false, false, true]) := by decide

/-- Section 2.6: 0xFF + 0x01. -/
theorem test_step_addRI :
    see (fun t => (t.al, t.flags)) (step (State.on (machine 0xFF#8 0x01#8 0x03#8 0x04#8 clear) 0x01160001#32)) = some (0x00#8, flags true true false true true false) := by decide

/-- T25, T26: register minus immediate. -/
theorem test_step_subRI :
    see (fun t => (t.al, t.flags)) (step (State.on (machine 0x00#8 0x01#8 0x03#8 0x04#8 clear) 0x01170001#32)) = some (0xFF#8, flags true true false true false true) ∧
      see (fun t => (t.al, t.flags)) (step (State.on (machine 0x09#8 0x01#8 0x03#8 0x04#8 mixed) 0x01170005#32)) = some (0x04#8, clear) := by decide

/-- T24. -/
theorem test_step_notR :
    see (fun t => (t.al, t.flags)) (step (State.on (machine 0x0F#8 0x01#8 0x03#8 0x04#8 mixed) 0x01180000#32)) = some (0xF0#8, mixed) := by decide

/-- Section 2.12: 0x80, 0x10. -/
theorem test_step_negR :
    see (fun t => (t.al, t.flags)) (step (State.on (machine 0x80#8 0x01#8 0x03#8 0x04#8 clear) 0x01190000#32)) = some (0x80#8, flags true false true false false true) ∧
      see (fun t => (t.al, t.flags)) (step (State.on (machine 0x10#8 0x01#8 0x03#8 0x04#8 clear) 0x01190000#32)) = some (0xF0#8, flags true true false false false true) := by decide

/-- T20: CF stays set. -/
theorem test_step_incR :
    see (fun t => (t.al, t.flags)) (step (State.on (machine 0xFF#8 0x01#8 0x03#8 0x04#8 mixed) 0x011A0000#32)) = some (0x00#8, flags true true false true true false) := by decide

/-- T21: CF stays clear. -/
theorem test_step_decR :
    see (fun t => (t.al, t.flags)) (step (State.on (machine 0x00#8 0x01#8 0x03#8 0x04#8 clear) 0x011B0000#32)) = some (0xFF#8, flags false true false true false true) := by decide

/-- Section 2.9: SHR 0x81 by 7. -/
theorem test_step_shrRI :
    see (fun t => (t.al, shiftFlags t.flags)) (step (State.on (machine 0x81#8 0x01#8 0x03#8 0x04#8 clear) 0x011C0007#32)) = some (0x01#8, [false, false, false, false]) := by decide

/-- Section 2.9: SHL 0x81 by 7. -/
theorem test_step_shlRI :
    see (fun t => (t.al, shiftFlags t.flags)) (step (State.on (machine 0x81#8 0x01#8 0x03#8 0x04#8 clear) 0x011D0007#32)) = some (0x80#8, [false, false, false, true]) := by decide

/-- Section 2.9: SAR 0x81 by 7. -/
theorem test_step_sarRI :
    see (fun t => (t.al, shiftFlags t.flags)) (step (State.on (machine 0x81#8 0x01#8 0x03#8 0x04#8 clear) 0x011E0007#32)) = some (0xFF#8, [false, true, false, true]) := by decide

/-- T14: the register stays, CF is free. -/
theorem test_step_shift_by_zero :
    see (fun t => (t.al, t.flags.pf, t.flags.zf, t.flags.sf)) (step (State.on (machine 0x55#8 0x01#8 0x03#8 0x04#8 mixed) 0x011C0000#32)) = some (0x55#8, true, false, false) := by decide

/-- T30. -/
theorem test_step_mirrorR :
    see (fun t => (t.al, t.pc)) (step (State.on (machine 0x16#8 0x01#8 0x03#8 0x04#8 clear) 0x011F0000#32)) = some (0x68#8, 0x01#8) := by decide

/-- The other refusals and faults of a step: V10, V28 and V29 under a false condition, V7, a halted machine. -/
theorem test_step_stops :
    refusal (step (State.on (machine 0x01#8 0x02#8 0x03#8 0x04#8 clear) 0x18000000#32)) = some .invalidEncoding ∧
      refusal (step (State.on (machine 0x01#8 0x02#8 0x03#8 0x04#8 clear) 0x08080000#32)) = some .invalidEncoding ∧
      refusal (step (State.on (machine 0x01#8 0x02#8 0x03#8 0x04#8 clear) 0x08050400#32)) = some .invalidRegister ∧
      refusal (step (State.on (machine 0x01#8 0x02#8 0x03#8 0x04#8 clear) 0xE1060001#32)) = some .ambiguousCondition ∧
      fault (step { State.reset with halted := true }) = some .halted := by decide

/-- Section 2.4, the rows 0x80, 0x01 and 0x01, 0x80: signed and unsigned readings differ. -/
theorem test_conditions_after_cmp :
    condHolds .l (sub8 0x80#8 0x01#8).2 = true ∧ condHolds .a (sub8 0x80#8 0x01#8).2 = true ∧
      condHolds .g (sub8 0x01#8 0x80#8).2 = true ∧ condHolds .c (sub8 0x01#8 0x80#8).2 = true ∧
      condHolds .le (sub8 0x05#8 0x05#8).2 = true ∧ condHolds .g (sub8 0x05#8 0x05#8).2 = false := by decide

/-- V7 under `hcAsPrinted`: `ADD.HC AL, BL` runs when AF is set. -/
theorem test_step_under_hc_as_printed :
    see (fun t => t.al) (stepUnder .hcAsPrinted (State.on (machine 0x01#8 0x02#8 0x03#8 0x04#8 (flags false false false true false false)) 0xE1060001#32)) = some 0x03#8 ∧
      see (fun t => t.al) (stepUnder .hcAsPrinted (State.on (machine 0x01#8 0x02#8 0x03#8 0x04#8 clear) 0xE1060001#32)) = some 0x01#8 := by decide

/-- The host's placed word is fetched and run: ADD AL, BL from reset; MUL from reset. -/
theorem test_fetch_word :
    see (fun t => (t.ir, t.pc)) (step (State.reset.withFetchWord 32 0x01060001)) = some (0x01060001#32, 0x01#8) ∧
      see (fun t => (t.ir, t.pc)) (step (State.reset.withFetchWord 32 0x00060001)) = some (0x00060001#32, 0x01#8) := by decide

/-- R14: CF is the least significant of the six valid bits. -/
theorem test_flags_register :
    Flags.bits (flags true false false false false true) = 0b100001#6 ∧ Flags.bits (flags false true true false false false) = 0b000110#6 := by decide

/-! ### Witnesses: a concrete input that meets the hypotheses of a statement -/

/-- Two words in memory at 0: MOV DL, 0xFF and HLT. -/
def twoWords : List Byte := [0x00#8, 0x04#8, 0x03#8, 0xFF#8, 0x00#8, 0x01#8, 0x00#8, 0x00#8]

/-- A halted machine. -/
def stopped : State := { machine 0x01#8 0x02#8 0x03#8 0x04#8 mixed with halted := true }

/-- A machine about to add under a condition that holds. -/
def adding : State := State.on (machine 0xFF#8 0x01#8 0x03#8 0x04#8 zero) 0x09060001#32

/-- A machine about to divide by zero. -/
def dividing : State := State.on (machine 0x58#8 0x00#8 0x03#8 0x04#8 clear) 0x00070001#32

theorem witness_DecodeOfEncode :
    (Instr.divRR .p .al .dl).wellFormed .refuse = true ∧ (Instr.cmpRI .np .cl 0xFF#8).wellFormed .fieldLayout = true ∧
    (Instr.mirrorR .nhc .bl).wellFormed .hcAsPrinted = true := by decide

theorem witness_DecodedInstructionIsWellFormed :
    decodeWordUnder .refuse 0x0000ABCD#32 = .ok (.nop .none) ∧ (Instr.nop .none).format = .n ∧
    decodeWordUnder .fieldLayout 0xF11803FF#32 = .ok (.notR .np .dl) ∧ (Instr.notR .np .dl).format = .r ∧
    decodeWordUnder .hcAsPrinted 0xE1060301#32 = .ok (.addRR .hc .dl .bl) ∧ (Instr.addRR .hc .dl .bl).format = .rr ∧
    decodeWordUnder .refuse 0x091003FF#32 = .ok (.andRI .z .dl 0xFF#8) ∧ (Instr.andRI .z .dl 0xFF#8).format = .ri := by decide

theorem witness_UnusedArgumentsAreIgnored :
    decodeWordUnder .refuse 0x00020500#32 = .ok (.jmpLabel .none 0x05#8) ∧ byte0 0x00020599#32 = byte0 0x00020500#32 ∧
    byte1 0x00020599#32 = byte1 0x00020500#32 ∧ byte2 0x00020599#32 = byte2 0x00020500#32 ∧
    byte3 0x00020599#32 ≠ byte3 0x00020500#32 ∧ (Instr.jmpLabel .none 0x05#8).format = .l := by decide

theorem witness_FirstByteIsConditionOrSupergroup :
    (Instr.addRR .p .al .bl).cond ≠ .hc ∧ (Instr.addRR .p .al .bl).cond ≠ .nhc := by decide

theorem witness_SecondByteIsSubgroupAndFunction :
    (Instr.divRR .none .al .bl).supergroup = 0#3 ∧ (Instr.sarRR .none .al .bl).supergroup = 1#3 ∧
    (Instr.mirrorR .none .al).supergroup = 1#3 := by decide

/-- One word for each clause, at the ends of the ranges: code 3 is a register, code 4 is none. -/
theorem witness_RefusalReasonsInOrder :
    (¬(ValidCond 0x18#8 ∧ ValidOperation 0x18#8 0x00#8) ∧ 0x18#8 ≠ 0xE1#8 ∧ 0x18#8 ≠ 0xF1#8) ∧
    ¬(ValidCond 0x01#8 ∧ ValidOperation 0x01#8 0x0F#8) ∧ ¬(ValidCond 0x00#8 ∧ ValidOperation 0x00#8 0x08#8) ∧
    (ValidCond 0x08#8 ∧ ValidOperation 0x08#8 0x07#8 ∧ BadRegister 0x08#8 0x07#8 0x00#8 0x04#8) ∧
    (ValidCond 0x01#8 ∧ ValidOperation 0x01#8 0x1F#8 ∧ BadRegister 0x01#8 0x1F#8 0x04#8 0x00#8) ∧
    (ValidCond 0xF0#8 ∧ ValidOperation 0xF0#8 0x03#8 ∧ ¬BadRegister 0xF0#8 0x03#8 0x03#8 0xFF#8) ∧
    (ValidCond 0x01#8 ∧ ValidOperation 0x01#8 0x0E#8 ∧ ¬BadRegister 0x01#8 0x0E#8 0x03#8 0x03#8) := by
  unfold ValidCond ValidOperation BadRegister UsesFirstRegister UsesSecondRegister
  refine ⟨⟨?_, ?_, ?_⟩, ?_, ?_, ⟨?_, ?_, ?_⟩, ⟨?_, ?_, ?_⟩, ⟨?_, ?_, ?_⟩, ?_, ?_, ?_⟩ <;> decide

theorem witness_HcDecodeSettings : (0xE2#8 : Byte) ≠ 0xE1#8 ∧ (0xE2#8 : Byte) ≠ 0xF1#8 := by decide

theorem witness_StepRunsTheDecodedInstruction :
    adding.halted = false ∧ Memory.byteAt adding.imem (4 * adding.pc.toNat) = 0x09#8 ∧
    Memory.byteAt adding.imem (4 * adding.pc.toNat + 1) = 0x06#8 ∧
    Memory.byteAt adding.imem (4 * adding.pc.toNat + 2) = 0x00#8 ∧
    Memory.byteAt adding.imem (4 * adding.pc.toNat + 3) = 0x01#8 ∧
    decodeWord (0x09#8 ++ 0x06#8 ++ 0x00#8 ++ 0x01#8 : Word) = .ok (.addRR .z .al .bl) := by decide

theorem witness_PlacedWordIsRun : decodeWord 0x09060001#32 = .ok (.addRR .z .al .bl) := by decide

/-- The first and the last word of a short image; the last word of an image that fills the memory. -/
theorem witness_LoadedImageIsFetched :
    (∃ t, State.reset.loadProgram twoWords = some t) ∧ twoWords[4 * 1 + 3]? = some 0x00#8 ∧ twoWords[0]? = some 0x00#8 ∧
    (∃ t, State.reset.loadProgram (List.replicate 1024 0x00#8) = some t) ∧
    (List.replicate 1024 0x00#8)[4 * 255 + 3]? = some 0x00#8 := by
  refine ⟨⟨_, rfl⟩, by decide, by decide, ⟨_, if_pos ?_⟩, ?_⟩
  · rw [List.length_replicate]
    exact Nat.le_refl 1024
  · rw [List.getElem?_replicate, if_pos (by decide)]

/-- Nothing loaded at all, three bytes of four, all four. -/
theorem witness_UnloadedWordIsFetchedLikeAnyOther :
    State.reset.halted = false ∧ (∀ k, k < 4 → Memory.read State.reset.imem (4 * State.reset.pc.toNat + k) = none) ∧
    Memory.byteAt [(0, 0x00#8), (1, 0x00#8), (2, 0x00#8)] 3 = Config.imemInit 3 ∧
    adding.halted = false ∧ Memory.byteAt adding.imem 3 = 0x01#8 :=
  ⟨rfl, fun _ _ => rfl, rfl, rfl, by decide⟩

theorem witness_LaunchContentIsFixed : ∃ t, Reaches adding t ∧ t.pc ≠ adding.pc ∧
    ∀ k, k < 4 → Memory.read adding.imem (4 * (0xFF#8 : Pc).toNat + k) = none :=
  ⟨_, .tail .refl rfl, by decide, by decide⟩

/-- A start state that is not the reset state: other registers and flags, a word loaded. -/
theorem witness_ResetIsAStartState : StartState adding ∧ adding ≠ State.reset := ⟨⟨rfl, rfl, by decide⟩, by decide⟩

theorem witness_HaltedMachineTakesNoStep : stopped.halted = true ∧ Reaches stopped stopped := ⟨rfl, .refl⟩

/-- One word for each clause. -/
theorem witness_RejectedWordIsRefusedBeforeItsCondition :
    (Memory.readWord (State.on State.reset 0xE1060001#32).imem 0#8 = 0xE1060001#32 ∧ byte0 0xE1060001#32 = 0xE1#8) ∧
    (Memory.readWord (State.on State.reset 0x08080000#32).imem 0#8 = 0x08080000#32 ∧
      ¬(ValidCond (byte0 0x08080000#32) ∧ ValidOperation (byte0 0x08080000#32) (byte1 0x08080000#32))) ∧
    (Memory.readWord (State.on State.reset 0x08050400#32).imem 0#8 = 0x08050400#32 ∧
      ValidCond (byte0 0x08050400#32) ∧ ValidOperation (byte0 0x08050400#32) (byte1 0x08050400#32) ∧
      BadRegister (byte0 0x08050400#32) (byte1 0x08050400#32) (byte2 0x08050400#32) (byte3 0x08050400#32)) ∧
    (State.on State.reset 0x08050400#32).halted = false := by
  unfold ValidCond ValidOperation BadRegister UsesFirstRegister UsesSecondRegister
  decide

theorem witness_LoadKeepsTheMemoryForm :
    Memory.wf State.reset.imem ∧ (∃ t, State.reset.loadProgram twoWords = some t) ∧ twoWords.length ≤ 8 :=
  ⟨by decide, ⟨_, rfl⟩, by decide⟩

theorem witness_StepKeepsTheMemoryForm : Memory.wf adding.imem ∧ adding.imem ≠ [] ∧ ∃ t, step adding = .next t :=
  ⟨by decide, by decide, ⟨_, rfl⟩⟩

theorem witness_RunsNeverChangeMemory : ∃ t, Reaches adding t ∧ t.pc ≠ adding.pc :=
  ⟨_, .tail .refl rfl, by decide⟩

theorem witness_FalseConditionOnlyAdvances : condHolds (Instr.divRR .c .al .bl).cond dividing.flags = false := by decide

/-- The hypothesis of most statements about an instruction: a condition that holds, on flags that are not all clear. -/
theorem witness_condition_holds :
    condHolds .none dividing.flags = true ∧ condHolds .z adding.flags = true ∧ condHolds .le stopped.flags = true := by decide

theorem witness_HltHalts : condHolds .z adding.flags = true := by decide
theorem witness_JumpToRegister : condHolds .nc adding.flags = true := by decide
theorem witness_MoveImmediate : condHolds .s stopped.flags = true := by decide
theorem witness_MoveRegister : condHolds .v stopped.flags = true := by decide

/-- Both clauses: two registers, and one register twice. -/
theorem witness_MultiplyRegisters : condHolds .z adding.flags = true ∧ Reg.al ≠ Reg.bl ∧
    (adding.reg .al).toNat * (adding.reg .al).toNat > 255 := by decide

/-- Both clauses: divisors 1 and 0, the one with two registers and with one twice. -/
theorem witness_DivideRegisters :
    condHolds .z adding.flags = true ∧ (adding.reg .bl).toNat ≠ 0 ∧ Reg.al ≠ Reg.bl ∧ (adding.reg .al).toNat = 255 ∧
    condHolds .nz dividing.flags = true ∧ (dividing.reg .bl).toNat = 0 := by decide

theorem witness_LogicBetweenRegisters : condHolds .a (flags false true false true false true) = true := by decide
theorem witness_LogicWithImmediate : condHolds .be stopped.flags = true := by decide
theorem witness_AddRegisters : condHolds .l (flags false false true false false false) = true := by decide
theorem witness_AddImmediate : condHolds .ge (flags false false true false false true) = true := by decide
theorem witness_SubtractRegisters : condHolds .g (flags false false true false false true) = true := by decide
theorem witness_SubtractImmediate : condHolds .c stopped.flags = true := by decide
theorem witness_CompareWritesOnlyFlags : condHolds .p (flags false true false false false false) = true := by decide
theorem witness_TestWritesOnlyFlags : condHolds .np stopped.flags = true := by decide

/-- The counts 0, 1, 7, 8 and 255 as the statement of a shift divides them. -/
theorem witness_ShiftRightLogical : condHolds .z adding.flags = true ∧ (dividing.reg .bl).toNat = 0 ∧
    (1 ≤ (adding.reg .bl).toNat ∧ (adding.reg .bl).toNat ≤ 7) ∧ (0x07#8 : Byte).toNat ≤ 7 ∧ ¬(0x08#8 : Byte).toNat ≤ 7 ∧
    ¬(adding.reg .al).toNat ≤ 7 := by decide

theorem witness_ShiftLeft : condHolds .none dividing.flags = true ∧ (dividing.reg .bl).toNat = 0 ∧
    (1 ≤ (dividing.reg .cl).toNat ∧ (dividing.reg .cl).toNat ≤ 7) ∧ (0x01#8 : Byte).toNat = 1 := by decide

theorem witness_ShiftRightArithmetic : condHolds .nv dividing.flags = true ∧ (dividing.reg .bl).toNat = 0 ∧
    (1 ≤ (dividing.reg .dl).toNat ∧ (dividing.reg .dl).toNat ≤ 7) ∧ (0x07#8 : Byte).toNat = 7 := by decide

theorem witness_NotComplements : condHolds .z adding.flags = true := by decide
theorem witness_NegateRegister : condHolds .ns adding.flags = true ∧ (dividing.reg .bl).toNat = 0 := by decide
theorem witness_IncrementKeepsCarry : condHolds .z adding.flags = true ∧ (adding.reg .al).toNat = 255 := by decide
theorem witness_DecrementKeepsCarry : condHolds .nz dividing.flags = true ∧ (dividing.reg .bl).toNat = 0 := by decide
theorem witness_MirrorReversesBits : condHolds .z adding.flags = true := by decide
theorem witness_IncrementIsAddOneButCarry : condHolds .c stopped.flags = true ∧ stopped.flags.cf = true := by decide
theorem witness_NegateIsSubtractFromZero :
    condHolds .none dividing.flags = true ∧ Reg.al ≠ Reg.bl ∧ dividing.reg .bl = 0#8 := by decide
theorem witness_CompareAndTestStoreNothing : condHolds .z adding.flags = true := by decide

/-- The statements about every next state: an executed ADD, a skipped one, a jump, HLT and MUL. -/
theorem witness_next_states :
    (∃ t, exec (.addRR .z .al .bl) adding = .next t ∧ t.pc = 0x01#8 ∧ t.rl ≠ adding.rl) ∧
    (∃ t, exec (.addRR .nz .al .bl) adding = .next t ∧ t.rl = adding.rl) ∧
    (∃ t, exec (.jmpLabel .z 0x2A#8) adding = .next t ∧ t.pc = 0x2A#8) ∧
    (∃ t, exec (.jmpReg .z .al) adding = .next t ∧ t.pc = 0xFF#8) ∧
    (∃ t, exec (.hlt .z) adding = .next t ∧ t.halted = true) ∧
    (∃ t, exec (.mulRR .z .al .al) adding = .next t ∧ t.rh ≠ adding.rh) :=
  ⟨⟨_, rfl, by decide, by decide⟩, ⟨_, rfl, by decide⟩, ⟨_, rfl, by decide⟩, ⟨_, rfl, by decide⟩, ⟨_, rfl, by decide⟩,
    ⟨_, rfl, by decide⟩⟩

theorem witness_PcMovesToTheNextWord : ∃ t, exec (.addRR .z .al .bl) adding = .next t := ⟨_, rfl⟩
theorem witness_OnlyDestinationsAreWritten : ∃ t, exec (.mulRR .z .al .bl) adding = .next t ∧ t.bl = 0x00#8 :=
  ⟨_, rfl, by decide⟩

/-- Each clause: a false condition, a MOV, a NOT, an INC. -/
theorem witness_OnlyMulDivAndAluWriteFlags :
    (∃ t, exec (.addRR .nz .al .bl) adding = .next t) ∧ condHolds .nz adding.flags = false ∧
    (∃ t, exec (.movRR .z .al .bl) adding = .next t) ∧ (Instr.movRR .z .al .bl).isAlu = false ∧
    (∃ t, exec (.notR .z .al) adding = .next t) ∧ (∃ t, exec (.incR .z .al) adding = .next t) :=
  ⟨⟨_, rfl⟩, by decide, ⟨_, rfl⟩, by decide, ⟨_, rfl⟩, ⟨_, rfl⟩⟩

/-- Each clause: RH changed by MUL, RL by an ADD of two registers. -/
theorem witness_OnlyMulAndDivWriteRh :
    (∃ t, exec (.mulRR .z .al .al) adding = .next t ∧ t.rh ≠ adding.rh) ∧
    (∃ t, exec (.addRR .z .al .bl) adding = .next t ∧ t.rl ≠ adding.rl) :=
  ⟨⟨_, rfl, by decide⟩, ⟨_, rfl, by decide⟩⟩

/-- Both directions: a step that halts and one that does not. -/
theorem witness_OnlyHltHalts :
    (∃ t, step (State.on adding 0x08010000#32) = .next t ∧ t.halted = true) ∧
    (∃ t, step adding = .next t ∧ t.halted = false) :=
  ⟨⟨_, rfl, by decide⟩, ⟨_, rfl, by decide⟩⟩

theorem witness_EveryStepDrawsAnew : ∃ t, step adding = .next t := ⟨_, rfl⟩

/-- Every alternative of the closed list happens. -/
theorem witness_StepOutcomesAreTheClosedList :
    (∃ t, step adding = .next t) ∧ fault (step stopped) = some .halted ∧
    refusal (step (State.on State.reset 0x18000000#32)) = some .invalidEncoding ∧
    refusal (step (State.on State.reset 0xE1060001#32)) = some .ambiguousCondition ∧
    refusal (step (State.on State.reset 0x00050400#32)) = some .invalidRegister ∧
    refusal (step dividing) = some .divideByZero := by
  refine ⟨⟨_, rfl⟩, ?_⟩
  decide

/-- Both alternatives: a next state, and the refused division. -/
theorem witness_OnlyAZeroDivisorStopsAnInstruction :
    (∃ t, exec (.divRR .c .al .bl) dividing = .next t) ∧ refusal (exec (.divRR .none .al .bl) dividing) = some .divideByZero :=
  ⟨⟨_, rfl⟩, by decide⟩

theorem witness_HiddenRegistersAreNotObservable :
    SameVisible adding { adding with ir := 0x12345678#32, rl := 0xAB#8, rh := 0xCD#8, clock := 7 } ∧
    adding ≠ { adding with ir := 0x12345678#32, rl := 0xAB#8, rh := 0xCD#8, clock := 7 } :=
  ⟨⟨fun q => by cases q <;> rfl, rfl, rfl, rfl, rfl, rfl⟩, by decide⟩

theorem witness_AuxiliaryCarryIsWriteOnly :
    SameButAf adding { adding with flags := { adding.flags with af := true } } ∧
    adding ≠ { adding with flags := { adding.flags with af := true } } :=
  ⟨rfl, by decide⟩

end Sys2Proof.Tests
end

/-! The first two bytes of an encoding: how condition and supergroup share the first byte (spec/30_encoding.md R61), and
how subgroup and function make the second one (R65). -/

namespace Sys2Proof

/-! ### The bytes the encoder writes -/

@[simp] theorem byte0_encode (i : Instr) : byte0 (encode i) = i.firstByte := byte0_joinBytes ..

@[simp] theorem byte1_encode (i : Instr) : byte1 (encode i) = i.opcode := byte1_joinBytes ..

/-! ### The two fields of the first byte -/

theorem condField_or (a b : Byte) : condField (a ||| b) = condField a ||| condField b :=
  BitVec.extractLsb'_or

theorem supergroupField_or (a b : Byte) :
    supergroupField (a ||| b) = supergroupField a ||| supergroupField b :=
  BitVec.extractLsb'_or

/-- A supergroup stays below the condition's five bits. -/
@[simp] theorem condField_setWidth (sg : BitVec 3) : condField (sg.setWidth 8) = 0#5 := by
  ext k hk
  simp [condField]

@[simp] theorem supergroupField_setWidth (sg : BitVec 3) : supergroupField (sg.setWidth 8) = sg := by
  ext k hk
  have hk8 : k < 8 := by omega
  simp [supergroupField, hk8, BitVec.getLsbD_eq_getElem hk]

/-- Only the printed op-codes of HC and NHC, 0xE1 and 0xF1, reach into the supergroup's bits (R64). -/
theorem supergroupField_opcode {cc : Cond} (hhc : cc ≠ .hc) (hnhc : cc ≠ .nhc) :
    supergroupField cc.opcode = 0#3 := by
  cases cc with
  | hc => exact absurd rfl hhc
  | nhc => exact absurd rfl hnhc
  | _ => rfl

/-- The upper five bits are the condition's under every condition, HC and NHC included. -/
theorem condField_firstByte (i : Instr) : condField i.firstByte = condField i.cond.opcode := by
  simp [Instr.firstByte, condField_or]

theorem supergroupField_firstByte {i : Instr} (hhc : i.cond ≠ .hc) (hnhc : i.cond ≠ .nhc) :
    supergroupField i.firstByte = i.supergroup := by
  simp [Instr.firstByte, supergroupField_or, supergroupField_opcode hhc hnhc]

/-- Settles O4: the encoder writes the OR as the first byte, and an op-code that is 0 in the lower three bits leaves them
to the supergroup. -/
theorem firstByteIsConditionOrSupergroup : Obligations.FirstByteIsConditionOrSupergroup := by
  refine ⟨byte0_encode, fun i hhc hnhc => ⟨supergroupField_opcode hhc hnhc, ?_, ?_⟩⟩
  · rw [byte0_encode, condField_firstByte]
  · rw [byte0_encode, supergroupField_firstByte hhc hnhc]

/-! ### The two nibbles of the second byte -/

/-- Bits 23 to 20 are the upper nibble of the second byte, bits 19 to 16 the lower one. -/
theorem byte1_eq_nibbles (w : Word) :
    byte1 w = (w.extractLsb' 20 4).setWidth 8 <<< 4 ||| (w.extractLsb' 16 4).setWidth 8 := by
  ext k hk
  by_cases hlow : k < 4
  · simp [byte1, hlow]
  · have hupper : 20 + (k - 4) = 16 + k := by omega
    have hnibble : k - 4 < 4 := by omega
    simp [byte1, hlow, hupper, hnibble]

/-- The op-codes of each supergroup in the table of R66. -/
theorem supergroup_opcode_range (i : Instr) :
    (i.supergroup = 0#3 ∧ i.opcode.toNat < 8) ∨
      (i.supergroup = 1#3 ∧ (i.opcode.toNat < 15 ∨ (16 ≤ i.opcode.toNat ∧ i.opcode.toNat < 32))) := by
  cases i <;> simp [Instr.supergroup, Instr.opcode]

/-- Settles O5: the nibbles are those of any word's second byte, the ranges and the shared right nibbles those of the
op-code table. -/
theorem secondByteIsSubgroupAndFunction : Obligations.SecondByteIsSubgroupAndFunction := by
  constructor
  · intro i
    refine ⟨byte1_encode i, byte1_eq_nibbles (encode i), ?_⟩
    obtain ⟨hsg, hrange⟩ | ⟨hsg, hrange⟩ := supergroup_opcode_range i
    · simp [hsg, hrange]
    · simp [hsg, hrange]
  · intro cc d r v
    refine ⟨?_, ?_, ?_, ?_, ?_, ?_, ?_, ?_, ?_, ?_, ?_⟩ <;> rfl

end Sys2Proof

/-! What one instruction can do. `Frame` is what every instruction but a taken jump and HLT keeps; `Executed` lists all that an
instruction whose condition holds can answer (spec/40_execution_model.md R90, R91), and the rules about every instruction are
read off that list. -/

namespace Sys2Proof.Machine

open Sys2Proof

/-! ### The frame of the shared operations -/

/-- From `s` to `t` only the registers `ds`, the flags, RL and RH are written, and the PC is at the next word. -/
structure Frame (ds : List Reg) (s t : State) : Prop where
  regs : RegsKept ds s t
  imem : t.imem = s.imem
  halted : t.halted = s.halted
  ir : t.ir = s.ir
  clock : t.clock = s.clock
  pc : t.pc = s.pc + Config.pcInc
  draws : s.draws ≤ t.draws

theorem memoryKept_of_imem_eq {s t : State} (h : t.imem = s.imem) : MemoryKept s t := fun _ => by rw [h]

theorem Frame.keptBut {ds : List Reg} {s t : State} (h : Frame ds s t) : KeptBut ds s t :=
  ⟨h.regs, memoryKept_of_imem_eq h.imem, h.halted, h.ir, h.clock⟩

theorem Frame.pcNext {ds : List Reg} {s t : State} (h : Frame ds s t) : PcNext s t := by
  simp [PcNext, h.pc, Config.pcInc]

/-- Using up a draw adds nothing to what is written. -/
theorem Frame.drawn {ds : List Reg} {s t : State} (h : Frame ds s t) : Frame ds s t.drawn where
  regs q hq := by simpa using h.regs q hq
  imem := h.imem
  halted := h.halted
  ir := h.ir
  clock := h.clock
  pc := h.pc
  draws := Nat.le_succ_of_le h.draws

theorem advance_frame (s : State) : Frame [] s s.advance := by
  constructor <;> simp [RegsKept]

theorem setReg_advance_frame (d : Reg) (v : Byte) (s : State) : Frame [d] s (s.setReg d v).advance := by
  constructor <;> simp +contextual [RegsKept]

theorem aluRegReg_frame (f : Byte → Byte → Byte × Flags) (d r : Reg) (s : State) : Frame [d] s (aluRegReg f d r s) := by
  constructor <;> simp +contextual [RegsKept, aluRegReg_spec]

theorem compareRegReg_frame (f : Byte → Byte → Byte × Flags) (d r : Reg) (s : State) :
    Frame [] s (compareRegReg f d r s) := by
  constructor <;> simp [RegsKept, compareRegReg_spec]

theorem aluRegImm_frame (f : Byte → Byte → Byte × Flags) (d : Reg) (v : Byte) (s : State) :
    Frame [d] s (aluRegImm f d v s) := by
  constructor <;> simp +contextual [RegsKept, aluRegImm_spec]

theorem compareRegImm_frame (f : Byte → Byte → Byte × Flags) (d : Reg) (v : Byte) (s : State) :
    Frame [] s (compareRegImm f d v s) := by
  constructor <;> simp [RegsKept, compareRegImm_spec]

theorem aluReg_frame (f : Byte → Byte × Flags) (d : Reg) (s : State) : Frame [d] s (aluReg f d s) := by
  constructor <;> simp +contextual [RegsKept, aluReg_spec]

theorem lowHigh_frame (low high : Byte) (d r : Reg) (s : State) : Frame [d, r] s (lowHigh low high d r s) := by
  constructor <;> simp +contextual [RegsKept, lowHigh_spec]

/-! ### What an executed instruction answers -/

/-- MUL or DIV, the instructions with two destinations. -/
def IsMulDiv (i : Instr) : Prop := ∃ cc d r, i = .mulRR cc d r ∨ i = .divRR cc d r

/-- INC or DEC, the instructions that write every flag but CF. -/
def IsIncDec (i : Instr) : Prop := ∃ cc d, i = .incR cc d ∨ i = .decR cc d

/-- The answers of an instruction `i` whose condition holds in `s`. -/
inductive Executed (i : Instr) (s : State) : Result → Prop where
  /-- NOP, MOV and NOT -/
  | plain {t : State} (frame : Frame (destinations i) s t) (flags : t.flags = s.flags) (parts : PartsKept s t) :
      Executed i s (.next t)
  /-- supergroup 1 but NOT -/
  | alu {t : State} (frame : Frame (destinations i) s t) (isAlu : i.isAlu = true) (notNot : ∀ cc d, i ≠ .notR cc d)
      (carry : IsIncDec i → t.flags.cf = s.flags.cf) (rl : t.rl = s.rl ∨ i.format = .rr) (rh : t.rh = s.rh) :
      Executed i s (.next t)
  /-- MUL, and DIV by a divisor that is not 0 -/
  | mulDiv {t : State} (frame : Frame (destinations i) s t) (isMulDiv : IsMulDiv i) : Executed i s (.next t)
  /-- DIV by 0 -/
  | zeroDivisor {cc : Cond} {d r : Reg} (isDiv : i = .divRR cc d r) (zero : s.reg r = 0#8) :
      Executed i s (.refused .divideByZero)
  /-- both forms of JMP -/
  | jump {target : Pc}
      (isJmp : (∃ cc label, i = .jmpLabel cc label ∧ target = label) ∨ ∃ cc d, i = .jmpReg cc d ∧ target = s.reg d) :
      Executed i s (.next (s.setPc target))
  /-- HLT -/
  | halt {cc : Cond} (isHlt : i = .hlt cc) : Executed i s (.next (s.setHalted.setPc (Config.anyPc s.draws)).drawn)

/-- A two-register form of supergroup 1, with a destination or without. -/
theorem Executed.aluRR {i : Instr} {s t : State} (frame : Frame (destinations i) s t) (isAlu : i.isAlu = true)
    (format : i.format = .rr) (rh : t.rh = s.rh) : Executed i s (.next t) := by
  refine .alu frame isAlu ?_ ?_ (.inr format) rh
  · rintro cc d rfl
    cases format
  · rintro ⟨cc, d, rfl | rfl⟩ <;> cases format

/-- A form of supergroup 1 with an immediate. -/
theorem Executed.aluRI {i : Instr} {s t : State} (frame : Frame (destinations i) s t) (isAlu : i.isAlu = true)
    (format : i.format = .ri) (rl : t.rl = s.rl) (rh : t.rh = s.rh) : Executed i s (.next t) := by
  refine .alu frame isAlu ?_ ?_ (.inl rl) rh
  · rintro cc d rfl
    cases format
  · rintro ⟨cc, d, rfl | rfl⟩ <;> cases format

/-- Every meaning is a choice by the condition (`conditional`); this is the branch of the rule. -/
theorem Executed.rule {i : Instr} {s : State} {p : Prop} [Decidable p] {rule skip : Result} (hp : p)
    (h : Executed i s rule) : Executed i s (if p then rule else skip) := by
  rwa [if_pos hp]

/-- Every executed instruction answers one of `Executed`. -/
theorem exec_executed {i : Instr} {s : State} (hc : condHolds i.cond s.flags = true) : Executed i s (exec i s) := by
  cases i with
  | nop cc =>
    exact .rule hc <| .plain (advance_frame s) rfl ⟨rfl, rfl⟩
  | hlt cc =>
    exact .rule hc <| .halt rfl
  | jmpLabel cc label =>
    exact .rule hc <| .jump (.inl ⟨cc, label, rfl, rfl⟩)
  | jmpReg cc d =>
    exact .rule hc <| .jump (.inr ⟨cc, d, rfl, rfl⟩)
  | movRI cc d v | movRR cc d v | notR cc d =>
    exact .rule hc <| .plain (setReg_advance_frame d _ s) (by simp) (by simp [PartsKept])
  | mulRR cc d r =>
    exact .rule hc <| .mulDiv (lowHigh_frame _ _ d r s) ⟨cc, d, r, .inl rfl⟩
  | divRR cc d r =>
    refine .rule hc ?_
    split
    · next hzero => exact .zeroDivisor rfl hzero
    · exact .mulDiv (lowHigh_frame _ _ d r s) ⟨cc, d, r, .inr rfl⟩
  | addRR cc d r | subRR cc d r =>
    exact .rule hc <| .aluRR (aluRegReg_frame _ d r s) rfl rfl (by simp [aluRegReg_spec])
  | andRR cc d r | andnRR cc d r | orRR cc d r | norRR cc d r | xorRR cc d r | xnorRR cc d r | shrRR cc d r
  | shlRR cc d r | sarRR cc d r =>
    exact .rule hc <| .aluRR (aluRegReg_frame _ d r s).drawn rfl rfl (by simp [aluRegReg_spec])
  | cmpRR cc d r =>
    exact .rule hc <| .aluRR (compareRegReg_frame _ d r s) rfl rfl (by simp [compareRegReg_spec])
  | testRR cc d r =>
    exact .rule hc <| .aluRR (compareRegReg_frame _ d r s).drawn rfl rfl (by simp [compareRegReg_spec])
  | addRI cc d v | subRI cc d v =>
    exact .rule hc <| .aluRI (aluRegImm_frame _ d v s) rfl rfl (by simp [aluRegImm_spec]) (by simp [aluRegImm_spec])
  | andRI cc d v | andnRI cc d v | orRI cc d v | norRI cc d v | xorRI cc d v | xnorRI cc d v | shrRI cc d v
  | shlRI cc d v | sarRI cc d v =>
    exact .rule hc <| .aluRI (aluRegImm_frame _ d v s).drawn rfl rfl (by simp [aluRegImm_spec])
      (by simp [aluRegImm_spec])
  | cmpRI cc d v =>
    exact .rule hc <| .aluRI (compareRegImm_frame _ d v s) rfl rfl (by simp [compareRegImm_spec])
      (by simp [compareRegImm_spec])
  | testRI cc d v =>
    exact .rule hc <| .aluRI (compareRegImm_frame _ d v s).drawn rfl rfl (by simp [compareRegImm_spec])
      (by simp [compareRegImm_spec])
  | incR cc d | decR cc d =>
    exact .rule hc <| .alu (aluReg_frame _ d s) rfl nofun (fun _ => by simp [aluReg_spec, keepCarry])
      (.inl (by simp [aluReg_spec])) (by simp [aluReg_spec])
  | negR cc d =>
    exact .rule hc <| .alu (aluReg_frame _ d s) rfl nofun (by simp [IsIncDec])
      (.inl (by simp [aluReg_spec])) (by simp [aluReg_spec])
  | mirrorR cc d =>
    exact .rule hc <| .alu (aluReg_frame _ d s).drawn rfl nofun (by simp [IsIncDec])
      (.inl (by simp [aluReg_spec])) (by simp [aluReg_spec])

/-- An instruction that answers a state either skipped, and only the PC has moved, or was executed. -/
theorem exec_next {i : Instr} {s t : State} (h : exec i s = .next t) :
    (condHolds i.cond s.flags = false ∧ t = s.advance) ∨ (condHolds i.cond s.flags = true ∧ Executed i s (.next t)) := by
  by_cases hc : condHolds i.cond s.flags = true
  · exact .inr ⟨hc, h ▸ exec_executed hc⟩
  · rw [Bool.not_eq_true] at hc
    rw [exec_of_false hc] at h
    exact .inl ⟨hc, (Host.Outcome.next.inj h).symm⟩

/-! ### Rules of every instruction -/

/-- Settles O20: the skipped instruction is `State.advance`. -/
theorem falseConditionOnlyAdvances : Obligations.FalseConditionOnlyAdvances := fun _ _ hc => exec_of_false hc

/-- Settles O51: of the answers of an executed instruction only `Executed.zeroDivisor` is no next state. -/
theorem onlyAZeroDivisorStopsAnInstruction : Obligations.OnlyAZeroDivisorStopsAnInstruction := by
  intro i s
  by_cases hc : condHolds i.cond s.flags = true
  · have h := exec_executed hc
    generalize exec i s = res at h
    cases h with
    | zeroDivisor isDiv zero => exact .inr ⟨rfl, _, _, _, isDiv, by rw [isDiv] at hc; exact hc, zero⟩
    | _ => exact .inl ⟨_, rfl⟩
  · exact .inl ⟨_, exec_of_false (Bool.not_eq_true _ ▸ hc)⟩

/-- Settles O52: a frame moves the PC to the next word; the other answers are a jump and a halt. -/
theorem pcMovesToTheNextWord : Obligations.PcMovesToTheNextWord := by
  intro i s t h
  obtain ⟨-, rfl⟩ | ⟨hc, hex⟩ := exec_next h
  · exact .inl (advance_frame s).pcNext
  cases hex with
  | plain frame | alu frame | mulDiv frame => exact .inl frame.pcNext
  | jump isJmp => exact .inr ⟨hc, .inr isJmp⟩
  | halt isHlt => exact .inr ⟨hc, .inl ⟨_, isHlt⟩⟩

/-- No instruction writes the memory, IR or the clock counter. -/
theorem exec_next_keeps {i : Instr} {s t : State} (h : exec i s = .next t) :
    t.imem = s.imem ∧ t.ir = s.ir ∧ t.clock = s.clock := by
  obtain ⟨-, rfl⟩ | ⟨-, hex⟩ := exec_next h
  · exact ⟨rfl, rfl, rfl⟩
  cases hex with
  | plain frame | alu frame | mulDiv frame => exact ⟨frame.imem, frame.ir, frame.clock⟩
  | jump | halt => exact ⟨rfl, rfl, rfl⟩

/-- An instruction writes no general-purpose register but its destinations. -/
theorem exec_next_regsKept {i : Instr} {s t : State} (h : exec i s = .next t) : RegsKept (destinations i) s t := by
  obtain ⟨-, rfl⟩ | ⟨-, hex⟩ := exec_next h
  · exact fun q _ => s.advance_reg q
  cases hex with
  | plain frame | alu frame | mulDiv frame => exact frame.regs
  | jump | halt => exact fun q _ => by simp

/-- Settles O53: `exec_next_regsKept` and `exec_next_keeps`. -/
theorem onlyDestinationsAreWritten : Obligations.OnlyDestinationsAreWritten := fun _ _ _ h =>
  have ⟨himem, hir, hclock⟩ := exec_next_keeps h
  ⟨exec_next_regsKept h, memoryKept_of_imem_eq himem, hir, hclock⟩

/-- Settles O54: the flags are written by the answers `alu` and `mulDiv` only. -/
theorem onlyMulDivAndAluWriteFlags : Obligations.OnlyMulDivAndAluWriteFlags := by
  intro i s t h
  obtain ⟨-, rfl⟩ | ⟨hc, hex⟩ := exec_next h
  · exact ⟨fun _ => rfl, fun _ => rfl⟩
  cases hex with
  | plain _ flags => exact ⟨fun _ => flags, fun _ => by rw [flags]⟩
  | jump | halt => exact ⟨fun _ => rfl, fun _ => rfl⟩
  | alu _ isAlu notNot carry =>
    refine ⟨?_, carry⟩
    rintro (hfalse | ⟨hbasic, -⟩ | ⟨cc, d, hnot⟩)
    · simp [hc] at hfalse
    · simp [isAlu] at hbasic
    · exact absurd hnot (notNot cc d)
  | mulDiv _ isMulDiv =>
    obtain ⟨cc, d, r, hi⟩ := isMulDiv
    constructor
    · rintro (hfalse | ⟨-, hother⟩ | ⟨cc', d', rfl⟩)
      · simp [hc] at hfalse
      · exact absurd hi (not_or.2 (hother cc d r))
      · simp at hi
    · rintro ⟨cc', d', rfl | rfl⟩ <;> simp at hi

/-- Settles O55: RH is written by the answer `mulDiv` only, RL by it and by the two-register forms among `alu`. -/
theorem onlyMulAndDivWriteRh : Obligations.OnlyMulAndDivWriteRh := by
  intro i s t h
  obtain ⟨-, rfl⟩ | ⟨hc, hex⟩ := exec_next h
  · exact ⟨fun hne => absurd rfl hne, fun hne => absurd rfl hne⟩
  cases hex with
  | plain _ _ parts => exact ⟨fun hne => absurd parts.2 hne, fun hne => absurd parts.1 hne⟩
  | jump | halt => exact ⟨fun hne => absurd rfl hne, fun hne => absurd rfl hne⟩
  | alu _ isAlu _ _ rl rh =>
    exact ⟨fun hne => absurd rh hne, fun hne => ⟨hc, .inr ⟨isAlu, rl.resolve_left hne⟩⟩⟩
  | mulDiv _ isMulDiv => exact ⟨fun _ => ⟨hc, isMulDiv⟩, fun _ => ⟨hc, .inl isMulDiv⟩⟩

end Sys2Proof.Machine

/-! The step, its fetch and its stops (spec/40_execution_model.md R90, spec/60_exceptions.md R201); what a run keeps of the memory
(spec/20_memory.md R44 to R49); the host's loaders and reset (spec/70_reset_and_hazards.md R220, R221). -/

namespace Sys2Proof.Machine

open Sys2Proof

/-! ### The outcomes of a step -/

theorem step_of_halted {s : State} (h : s.halted = true) : step s = .fault .halted := if_pos h

theorem step_of_ok {s : State} {i : Instr} (hrun : s.halted = false) (hdec : decodeWord s.fetch = .ok i) :
    step s = exec i (s.fetched s.fetch) := by
  unfold decodeWord at hdec
  simp [step, stepUnder, hrun, hdec]

theorem step_of_error {s : State} {e : DecodeError} (hrun : s.halted = false) (hdec : decodeWord s.fetch = .error e) :
    step s = .refused (refusalOf e) := by
  unfold decodeWord at hdec
  simp [step, stepUnder, hrun, hdec]

/-- A step to a next state ran the decoded instruction of a machine that was not halted. -/
theorem step_next {s t : State} (h : step s = .next t) :
    s.halted = false ∧ ∃ i, decodeWord s.fetch = .ok i ∧ exec i (s.fetched s.fetch) = .next t := by
  by_cases hhalt : s.halted = true
  · simp [step_of_halted hhalt] at h
  · rw [Bool.not_eq_true] at hhalt
    cases hdec : decodeWord s.fetch with
    | error e => simp [step_of_error hhalt hdec] at h
    | ok i => exact ⟨hhalt, i, rfl, by rw [← step_of_ok hhalt hdec, h]⟩

/-- Settles O57: a halted machine faults, a rejected word is refused under its reason's name, an instruction answers as
`onlyAZeroDivisorStopsAnInstruction` says. -/
theorem stepOutcomesAreTheClosedList : Obligations.StepOutcomesAreTheClosedList := by
  intro s
  by_cases hhalt : s.halted = true
  · exact .inr (.inl ⟨step_of_halted hhalt, hhalt⟩)
  rw [Bool.not_eq_true] at hhalt
  cases hdec : decodeWord s.fetch with
  | error e =>
    rw [step_of_error hhalt hdec]
    cases e <;> simp [refusalOf, hhalt]
  | ok i =>
    rw [step_of_ok hhalt hdec]
    obtain ⟨t, ht⟩ | ⟨hzero, -⟩ := onlyAZeroDivisorStopsAnInstruction i (s.fetched s.fetch)
    · exact .inl ⟨t, ht, hhalt⟩
    · exact .inr (.inr ⟨hhalt, by simp [hzero]⟩)

/-- Settles O56: of the answers of an executed instruction only `Executed.halt` halts. -/
theorem onlyHltHalts : Obligations.OnlyHltHalts := by
  intro s t h
  obtain ⟨hrun, i, hdec, hexec⟩ := step_next h
  have hrun' : (s.fetched s.fetch).halted ≠ true := by simp [hrun]
  constructor
  · intro hhalt
    obtain ⟨-, rfl⟩ | ⟨hc, hex⟩ := exec_next hexec
    · exact absurd hhalt hrun'
    cases hex with
    | plain frame | alu frame | mulDiv frame => exact absurd (frame.halted ▸ hhalt) hrun'
    | jump => exact absurd hhalt hrun'
    | @halt cc isHlt =>
      subst isHlt
      exact ⟨cc, hdec, hc⟩
  · rintro ⟨cc, hhlt, hc⟩
    obtain rfl : i = .hlt cc := Except.ok.inj (hdec.symm.trans hhlt)
    rw [exec_hlt (s := s.fetched s.fetch) hc] at hexec
    rw [← Host.Outcome.next.inj hexec]
    rfl

/-- An instruction gives no draw back. -/
theorem exec_next_draws {i : Instr} {s t : State} (h : exec i s = .next t) : s.draws ≤ t.draws := by
  obtain ⟨-, rfl⟩ | ⟨-, hex⟩ := exec_next h
  · exact Nat.le_refl _
  cases hex with
  | plain frame | alu frame | mulDiv frame => exact frame.draws
  | jump => exact Nat.le_refl _
  | halt => exact Nat.le_succ _

/-- Settles O60: the fetch uses up a draw, the instruction gives none back. -/
theorem everyStepDrawsAnew : Obligations.EveryStepDrawsAnew := by
  intro s t h
  obtain ⟨-, i, -, hexec⟩ := step_next h
  exact exec_next_draws hexec

/-! ### What steps and runs keep of the memory -/

theorem step_imem {s t : State} (h : step s = .next t) : t.imem = s.imem := by
  obtain ⟨-, i, -, hexec⟩ := step_next h
  obtain ⟨himem, -, -⟩ := exec_next_keeps hexec
  exact himem

theorem reaches_imem {s t : State} (h : Reaches s t) : t.imem = s.imem := by
  induction h with
  | refl => rfl
  | tail _ hstep ih => rw [step_imem hstep, ih]

/-- Settles O18: no step writes the memory, and so its form stays. -/
theorem stepKeepsTheMemoryForm : Obligations.StepKeepsTheMemoryForm := by
  intro s t hwf h
  rwa [step_imem h]

/-- Settles O19, by induction on the run (`reaches_imem`). -/
theorem runsNeverChangeMemory : Obligations.RunsNeverChangeMemory := by
  intro s t h
  have hread : ∀ a, Memory.read t.imem a = Memory.read s.imem a := memoryKept_of_imem_eq (reaches_imem h)
  exact ⟨hread, Memory.readWord_congr hread⟩

/-- Settles O13: no run loads a byte, and a byte that nothing has loaded reads as its launch value. -/
theorem launchContentIsFixed : Obligations.LaunchContentIsFixed := by
  intro s t p h hnone
  have hbyte : ∀ k, k < 4 → Memory.byteAt s.imem (4 * p.toNat + k) = Config.imemInit (4 * p.toNat + k) :=
    fun k hk => Memory.byteAt_of_unloaded (hnone k hk)
  rw [reaches_imem h, Memory.readWord, wordAddress, ← Nat.add_zero (4 * p.toNat), hbyte 0 (by decide)]
  simp only [Nat.add_zero, hbyte 1 (by decide), hbyte 2 (by decide), hbyte 3 (by decide), joinBytes]

/-- Settles O14: a run from a halted state has no first step. -/
theorem haltedMachineTakesNoStep : Obligations.HaltedMachineTakesNoStep := by
  intro s hhalt
  refine ⟨step_of_halted hhalt, fun t h => ?_⟩
  induction h with
  | refl => rfl
  | tail _ hstep ih =>
    rw [ih, step_of_halted hhalt] at hstep
    cases hstep

/-! ### The fetch -/

/-- Settles O9: the four bytes are the fetched word, and the state is the fetched one. -/
theorem stepRunsTheDecodedInstruction : Obligations.StepRunsTheDecodedInstruction := by
  rintro s _ _ _ _ i hrun rfl rfl rfl rfl hdec
  exact step_of_ok hrun hdec

/-- Settles O12: `Memory.byteAt` is the loaded byte or the launch value, and the decoder's two answers are the two steps. -/
theorem unloadedWordIsFetchedLikeAnyOther : Obligations.UnloadedWordIsFetchedLikeAnyOther := by
  intro s hrun byte w
  have hbyte : ∀ k, byte k = Memory.byteAt s.imem (4 * s.pc.toNat + k) := by
    intro k
    simp only [byte, Memory.byteAt]
    cases Memory.read s.imem (4 * s.pc.toNat + k) <;> rfl
  have hw : w = s.fetch := by
    simp only [w, hbyte]
    rfl
  rw [hw]
  refine ⟨fun i hdec => step_of_ok hrun hdec, fun e hdec => step_of_error hrun hdec, fun x hfault => ?_⟩
  obtain ⟨t, ht, -⟩ | ⟨-, hhalt⟩ | ⟨-, hrefused⟩ := stepOutcomesAreTheClosedList s
  · simp [ht] at hfault
  · simp [hrun] at hhalt
  · obtain h | h | h | h := hrefused <;> simp [h] at hfault

/-! ### The loaders -/

/-- A byte inside a loaded image is fetched as the image has it. -/
theorem Memory.byteAt_load {m : Memory} {a x : Nat} {bs : List Byte} {b : Byte} (hfit : a + bs.length ≤ Config.imemBytes)
    (hb : bs[x]? = some b) : Memory.byteAt (Memory.load m a bs) (a + x) = b := by
  have hx : x < bs.length := (List.getElem?_eq_some_iff.1 hb).1
  apply Memory.byteAt_of_read
  rw [Memory.read_load, if_pos ⟨by omega, by omega, by omega⟩, Nat.add_sub_cancel_left, hb]

theorem wordAddress_add_four_le (p : Pc) : wordAddress p + 4 ≤ Config.imemBytes := by
  have hp := p.isLt
  simp only [wordAddress, Config.imemBytes, Config.imemWords]
  omega

/-- A stored word is fetched as it was stored. -/
theorem Memory.readWord_writeWord (m : Memory) (p : Pc) (w : Word) :
    Memory.readWord (Memory.writeWord m p w) p = w := by
  have hbyte : ∀ x b, [byte0 w, byte1 w, byte2 w, byte3 w][x]? = some b →
      Memory.byteAt (Memory.writeWord m p w) (wordAddress p + x) = b :=
    fun x b hb => Memory.byteAt_load (wordAddress_add_four_le p) hb
  have h0 := hbyte 0 _ rfl
  have h1 := hbyte 1 _ rfl
  have h2 := hbyte 2 _ rfl
  have h3 := hbyte 3 _ rfl
  rw [Nat.add_zero] at h0
  rw [Memory.readWord, h0, h1, h2, h3, joinBytes_bytes]

/-- Settles O10: the stored word is the fetched one. -/
theorem placedWordIsRun : Obligations.PlacedWordIsRun := by
  intro s w i hdec
  have hfetch : (s.withFetchWord 32 w.toNat).fetch = w := by
    simp only [State.fetch, State.withFetchWord, Memory.readWord_writeWord]
    rw [Nat.mod_eq_of_lt w.isLt, BitVec.ofNat_toNat, BitVec.setWidth_eq]
  rw [step_of_ok rfl (by rwa [hfetch]), hfetch]

/-- Settles O11: an image that fits puts its byte `x` at address `x`, and word `k` is the bytes from `4 * k` on. -/
theorem loadedImageIsFetched : Obligations.LoadedImageIsFetched := by
  intro image s t k b0 b1 b2 b3 hload h0 h1 h2 h3
  obtain ⟨hfit, rfl⟩ := State.loadProgram_spec hload
  have hstart : wordAddress Config.resetPc = 0 := rfl
  have hlast : 4 * k + 3 < image.length := (List.getElem?_eq_some_iff.1 h3).1
  have haddr : wordAddress (Config.resetPc + BitVec.ofNat 8 k) = 0 + 4 * k := by
    simp only [Config.imemBytes, Config.imemWords] at hfit
    simp only [wordAddress, Config.resetPc, BitVec.toNat_add, BitVec.toNat_ofNat]
    omega
  have hword : Memory.readWord (Memory.load s.imem (wordAddress Config.resetPc) image)
      (Config.resetPc + BitVec.ofNat 8 k) = joinBytes b0 b1 b2 b3 := by
    rw [hstart] at hfit ⊢
    rw [Memory.readWord, haddr]
    simp only [Nat.add_assoc, Memory.byteAt_load hfit h0, Memory.byteAt_load hfit h1, Memory.byteAt_load hfit h2,
      Memory.byteAt_load hfit h3]
  intro w
  have hw : w = joinBytes b0 b1 b2 b3 := hword
  rw [hw]
  exact ⟨byte0_joinBytes .., byte1_joinBytes .., byte2_joinBytes .., byte3_joinBytes ..⟩

/-- Settles O17: a load writes the addresses below the image's length, and each write keeps the form. -/
theorem loadKeepsTheMemoryForm : Obligations.LoadKeepsTheMemoryForm := by
  intro image s t hwf hload
  obtain ⟨-, rfl⟩ := State.loadProgram_spec hload
  have hstart : wordAddress Config.resetPc = 0 := rfl
  refine ⟨Memory.load_wf _ image hwf, rfl, fun a ha => ?_⟩
  show Memory.read (Memory.load s.imem _ image) a = _
  rw [hstart, Memory.read_load, if_neg (by omega)]

/-! ### Reset -/

/-- Settles O16: the registers and flags of a start state are the `RESET_REGS` it was reset with. -/
theorem resetIsAStartState : Obligations.ResetIsAStartState := by
  refine ⟨rfl, rfl, fun _ => rfl, ⟨rfl, rfl, State.resetWith_imem_wf _⟩, fun s => ⟨?_, ?_⟩⟩
  · rintro ⟨hpc, hrun, hwf⟩
    refine ⟨{ al := s.al, bl := s.bl, cl := s.cl, dl := s.dl, cf := s.flags.cf, pf := s.flags.pf, vf := s.flags.vf,
              af := s.flags.af, zf := s.flags.zf, sf := s.flags.sf, ir := s.ir, rl := s.rl, rh := s.rh,
              clock := s.clock }, s.imem, s.draws, hwf, ?_⟩
    cases s
    cases hpc
    cases hrun
    rfl
  · rintro ⟨r, m, k, hwf, rfl⟩
    exact ⟨rfl, rfl, hwf⟩

end Sys2Proof.Machine

/-! Decoding against encoding (spec/30_encoding.md R60 to R73): the first byte, the operation table row by row, and what the two
give together: the round trip both ways, the arguments a format ignores, and the reasons for which a word is refused. -/

namespace Sys2Proof

open Sys2Proof.Machine

/-! ### The first byte -/

theorem supergroup_eq (i : Instr) : i.supergroup = if i.isAlu = true then 1#3 else 0#3 := by
  cases i <;> rfl

/-- A condition with an op-code under the setting `h` is read back from the first byte, and the supergroup beside it. -/
theorem decodeCond_firstByte {h : HcDecode} {i : Instr} (hwf : i.wellFormed h = true) :
    decodeCond h i.firstByte = .ok i.cond ∧ supergroupField i.firstByte = i.supergroup := by
  rw [Instr.firstByte, supergroup_eq]
  unfold Instr.wellFormed at hwf
  generalize i.cond = cc at hwf ⊢
  generalize i.isAlu = alu at hwf ⊢
  cases cc with
  | hc | nhc =>
    simp only [condEncodable, Bool.and_eq_true, beq_iff_eq] at hwf
    obtain ⟨rfl, rfl⟩ := hwf
    decide
  | p | np =>
    simp only [condEncodable, Bool.or_eq_true, beq_iff_eq, Bool.not_eq_true'] at hwf
    obtain rfl | rfl := hwf
    · cases alu <;> decide
    · cases h <;> decide
  | _ => cases alu <;> exact ⟨rfl, rfl⟩

/-- A valid value of `COND` is the upper five bits of its condition's op-code, and that is neither HC nor NHC (R63). -/
theorem decodeCondField_ok {x : BitVec 5} {cc : Cond} (h : decodeCondField x = .ok cc) :
    cc.opcode = x.setWidth 8 <<< 3 ∧ cc ≠ .hc ∧ cc ≠ .nhc := by
  unfold decodeCondField at h
  split at h <;> cases h <;> decide

theorem decodeCondField_eq (x : BitVec 5) :
    (∃ cc, decodeCondField x = .ok cc ∧ (x.toNat = 1 ∨ x.toNat % 2 = 0)) ∨
      (decodeCondField x = .error .invalidEncoding ∧ ¬(x.toNat = 1 ∨ x.toNat % 2 = 0)) := by
  unfold decodeCondField
  split
  case h_18 =>
    refine .inr ⟨rfl, ?_⟩
    simp only [imp_false, ← BitVec.toNat_inj, BitVec.toNat_ofNat] at *
    omega
  all_goals exact .inl ⟨_, rfl, by decide⟩

/-- Under `refuse` a first byte other than 0xE1 and 0xF1 has a condition exactly when its `COND` is in the table (R63). -/
theorem decodeCond_refuse {b0 : Byte} (he : b0 ≠ 0xE1#8) (hf : b0 ≠ 0xF1#8) :
    (ValidCond b0 ∧ ∃ cc, decodeCond .refuse b0 = .ok cc) ∨
      (¬ValidCond b0 ∧ decodeCond .refuse b0 = .error .invalidEncoding) := by
  rw [decodeCond, if_neg he, if_neg hf]
  obtain ⟨cc, hok, hvalid⟩ | ⟨herr, hinvalid⟩ := decodeCondField_eq (condField b0)
  · exact .inl ⟨hvalid, cc, hok⟩
  · exact .inr ⟨hinvalid, herr⟩

/-- A byte is its upper five bits OR its lower three. -/
theorem byte_eq_fields (b0 : Byte) :
    (condField b0).setWidth 8 <<< 3 ||| (supergroupField b0).setWidth 8 = b0 := by
  ext k hk
  by_cases hlow : k < 3
  · simp [condField, supergroupField, hlow, BitVec.getLsbD_eq_getElem hk]
  · have hupper : 3 + (k - 3) = k := by omega
    have hfield : k - 3 < 5 := by omega
    simp [condField, supergroupField, hlow, hupper, hfield, BitVec.getLsbD_eq_getElem hk]

/-- The byte a condition is read from is the condition's op-code OR the supergroup, if that is 0 or 1, and the condition can be
encoded beside it. -/
theorem decodeCond_ok {h : HcDecode} {b0 : Byte} {cc : Cond} {alu : Bool} (hdec : decodeCond h b0 = .ok cc)
    (hsg : supergroupField b0 = if alu = true then 1#3 else 0#3) :
    cc.opcode ||| (supergroupField b0).setWidth 8 = b0 ∧ condEncodable h alu cc = true := by
  unfold decodeCond at hdec
  split_ifs at hdec with he hf
  · subst he
    cases alu
    · exact absurd hsg (by decide)
    · cases h <;> cases hdec <;> decide
  · subst hf
    cases alu
    · exact absurd hsg (by decide)
    · cases h <;> cases hdec <;> decide
  · obtain ⟨hopcode, hhc, hnhc⟩ := decodeCondField_ok hdec
    have hbyte : cc.opcode ||| (supergroupField b0).setWidth 8 = b0 := by rw [hopcode, byte_eq_fields]
    refine ⟨hbyte, ?_⟩
    rw [hsg] at hbyte
    cases cc with
    | hc => exact absurd rfl hhc
    | nhc => exact absurd rfl hnhc
    | p | np =>
      cases alu
      · simp [condEncodable]
      · exact absurd hbyte.symm (by assumption)
    | _ => rfl

/-! ### The operation table -/

/-- An instruction of that condition, first and second byte and format. -/
structure Coded (cc : Cond) (b0 b1 : Byte) (f : Format) (i : Instr) : Prop where
  cond : i.cond = cc
  supergroup : i.supergroup = supergroupField b0
  opcode : i.opcode = b1
  format : i.format = f

/-- The decoder's answer for a condition, two bytes and two arguments by the row of the table they select (R66, R67). -/
inductive OperationRow (cc : Cond) (b0 b1 a1 a2 : Byte) : Except DecodeError Instr → Prop where
  | n {i : Instr} (coded : Coded cc b0 b1 .n i) : OperationRow cc b0 b1 a1 a2 (.ok i)
  | l {i : Instr} (coded : Coded cc b0 b1 .l i) (arg1 : i.arg1 = a1) : OperationRow cc b0 b1 a1 a2 (.ok i)
  | r {mk : Reg → Instr} (coded : ∀ d, Coded cc b0 b1 .r (mk d)) (arg1 : ∀ d, (mk d).arg1 = d.code) :
      OperationRow cc b0 b1 a1 a2 (decodeR a1 mk)
  | ri {mk : Reg → Byte → Instr} (coded : ∀ d v, Coded cc b0 b1 .ri (mk d v))
      (args : ∀ d v, (mk d v).arg1 = d.code ∧ (mk d v).arg2 = v) : OperationRow cc b0 b1 a1 a2 (decodeRI a1 a2 mk)
  | rr {mk : Reg → Reg → Instr} (coded : ∀ d r, Coded cc b0 b1 .rr (mk d r))
      (args : ∀ d r, (mk d r).arg1 = d.code ∧ (mk d r).arg2 = r.code) : OperationRow cc b0 b1 a1 a2 (decodeRR a1 a2 mk)
  | invalid (notListed : ¬ValidOperation b0 b1) : OperationRow cc b0 b1 a1 a2 (.error .invalidEncoding)

/-- `h_k` is the `k`-th row of `decodeBasic`, the last one every byte that is not listed. -/
theorem decodeBasic_row (cc : Cond) {b0 : Byte} (b1 a1 a2 : Byte) (hsg : supergroupField b0 = 0#3) :
    OperationRow cc b0 b1 a1 a2 (decodeBasic cc b1 a1 a2) := by
  unfold decodeBasic
  split
  case h_1 | h_2 => exact .n ⟨rfl, hsg.symm, rfl, rfl⟩
  case h_3 => exact .l ⟨rfl, hsg.symm, rfl, rfl⟩ rfl
  case h_4 => exact .r (fun _ => ⟨rfl, hsg.symm, rfl, rfl⟩) fun _ => rfl
  case h_5 => exact .ri (fun _ _ => ⟨rfl, hsg.symm, rfl, rfl⟩) fun _ _ => ⟨rfl, rfl⟩
  case h_6 | h_7 | h_8 => exact .rr (fun _ _ => ⟨rfl, hsg.symm, rfl, rfl⟩) fun _ _ => ⟨rfl, rfl⟩
  case h_9 =>
    refine .invalid ?_
    simp only [ValidOperation, hsg, imp_false, ← BitVec.toNat_inj, BitVec.toNat_ofNat] at *
    omega

/-- `h_k` is the `k`-th row of `decodeAlu`, the last one every byte that is not listed. -/
theorem decodeAlu_row (cc : Cond) {b0 : Byte} (b1 a1 a2 : Byte) (hsg : supergroupField b0 = 1#3) :
    OperationRow cc b0 b1 a1 a2 (decodeAlu cc b1 a1 a2) := by
  unfold decodeAlu
  split
  case h_1 | h_2 | h_3 | h_4 | h_5 | h_6 | h_7 | h_8 | h_10 | h_12 | h_13 | h_14 | h_15 =>
    exact .rr (fun _ _ => ⟨rfl, hsg.symm, rfl, rfl⟩) fun _ _ => ⟨rfl, rfl⟩
  case h_9 | h_11 | h_16 | h_17 | h_18 | h_19 | h_20 | h_21 | h_22 | h_23 | h_28 | h_29 | h_30 =>
    exact .ri (fun _ _ => ⟨rfl, hsg.symm, rfl, rfl⟩) fun _ _ => ⟨rfl, rfl⟩
  case h_24 | h_25 | h_26 | h_27 | h_31 => exact .r (fun _ => ⟨rfl, hsg.symm, rfl, rfl⟩) fun _ => rfl
  case h_32 =>
    refine .invalid ?_
    simp only [ValidOperation, hsg, imp_false, ← BitVec.toNat_inj, BitVec.toNat_ofNat] at *
    omega

theorem decodeOperation_row (cc : Cond) (b0 b1 a1 a2 : Byte) :
    OperationRow cc b0 b1 a1 a2 (decodeOperation cc (supergroupField b0) b1 a1 a2) := by
  unfold decodeOperation
  split
  case h_1 hsg => exact decodeBasic_row cc b1 a1 a2 hsg
  case h_2 hsg => exact decodeAlu_row cc b1 a1 a2 hsg
  case h_3 h0 h1 =>
    refine .invalid ?_
    simp only [ValidOperation, imp_false, ← BitVec.toNat_inj, BitVec.toNat_ofNat] at *
    omega

/-- An accepted operation is an instruction of the bytes and arguments it was read from. -/
theorem decodeOperation_ok {cc : Cond} {b0 b1 a1 a2 : Byte} {i : Instr}
    (h : decodeOperation cc (supergroupField b0) b1 a1 a2 = .ok i) :
    i.cond = cc ∧ i.supergroup = supergroupField b0 ∧ i.opcode = b1 ∧ (i.format ≠ .n → i.arg1 = a1) ∧
      (i.format = .ri ∨ i.format = .rr → i.arg2 = a2) := by
  have hrow := decodeOperation_row cc b0 b1 a1 a2
  generalize decodeOperation cc (supergroupField b0) b1 a1 a2 = res at h hrow
  cases hrow with
  | n coded =>
    cases h
    exact ⟨coded.cond, coded.supergroup, coded.opcode, by simp [coded.format], by simp [coded.format]⟩
  | l coded arg1 =>
    cases h
    exact ⟨coded.cond, coded.supergroup, coded.opcode, fun _ => arg1, by simp [coded.format]⟩
  | r coded arg1 =>
    obtain ⟨d, rfl, rfl⟩ := decodeR_ok h
    have hd := coded d
    exact ⟨hd.cond, hd.supergroup, hd.opcode, fun _ => arg1 d, by simp [hd.format]⟩
  | ri coded args =>
    obtain ⟨d, rfl, rfl⟩ := decodeRI_ok h
    have hd := coded d a2
    exact ⟨hd.cond, hd.supergroup, hd.opcode, fun _ => (args d a2).1, fun _ => (args d a2).2⟩
  | rr coded args =>
    obtain ⟨d, r, rfl, rfl, rfl⟩ := decodeRR_ok h
    have hd := coded d r
    exact ⟨hd.cond, hd.supergroup, hd.opcode, fun _ => (args d r).1, fun _ => (args d r).2⟩
  | invalid => cases h

/-- The operation the encoder writes decodes to its instruction: the family `OperationDecodes` in one statement. -/
theorem decodeOperation_args (i : Instr) :
    decodeOperation i.cond i.supergroup i.opcode i.arg1 i.arg2 = .ok i := by
  open Laws.OperationDecodes in
  cases i with
  | nop cc => exact nop cc
  | hlt cc => exact hlt cc
  | jmpLabel cc label => exact jmpLabel cc label
  | jmpReg cc d => exact jmpReg cc d
  | movRI cc d v => exact movRI cc d v
  | movRR cc d r => exact movRR cc d r
  | mulRR cc d r => exact mulRR cc d r
  | divRR cc d r => exact divRR cc d r
  | andRR cc d r => exact andRR cc d r
  | andnRR cc d r => exact andnRR cc d r
  | orRR cc d r => exact orRR cc d r
  | norRR cc d r => exact norRR cc d r
  | xorRR cc d r => exact xorRR cc d r
  | xnorRR cc d r => exact xnorRR cc d r
  | addRR cc d r => exact addRR cc d r
  | subRR cc d r => exact subRR cc d r
  | cmpRI cc d v => exact cmpRI cc d v
  | cmpRR cc d r => exact cmpRR cc d r
  | testRI cc d v => exact testRI cc d v
  | testRR cc d r => exact testRR cc d r
  | shrRR cc d r => exact shrRR cc d r
  | shlRR cc d r => exact shlRR cc d r
  | sarRR cc d r => exact sarRR cc d r
  | andRI cc d v => exact andRI cc d v
  | andnRI cc d v => exact andnRI cc d v
  | orRI cc d v => exact orRI cc d v
  | norRI cc d v => exact norRI cc d v
  | xorRI cc d v => exact xorRI cc d v
  | xnorRI cc d v => exact xnorRI cc d v
  | addRI cc d v => exact addRI cc d v
  | subRI cc d v => exact subRI cc d v
  | notR cc d => exact notR cc d
  | negR cc d => exact negR cc d
  | incR cc d => exact incR cc d
  | decR cc d => exact decR cc d
  | shrRI cc d v => exact shrRI cc d v
  | shlRI cc d v => exact shlRI cc d v
  | sarRI cc d v => exact sarRI cc d v
  | mirrorR cc d => exact mirrorR cc d

/-! ### The round trip -/

/-- Settles O1: the first byte gives condition and supergroup back (`decodeCond_firstByte`), the other bytes the operation. -/
theorem decodeOfEncode : Obligations.DecodeOfEncode := by
  intro h i hwf
  obtain ⟨hcond, hsg⟩ := decodeCond_firstByte hwf
  rw [decodeWordUnder, encode, byte0_joinBytes, byte1_joinBytes, byte2_joinBytes, byte3_joinBytes, decodeFields, hcond]
  dsimp only
  rw [hsg, decodeOperation_args]

/-- An accepted word has a condition and an operation. -/
theorem decodeFields_ok {h : HcDecode} {b0 b1 a1 a2 : Byte} {i : Instr} (hdec : decodeFields h b0 b1 a1 a2 = .ok i) :
    decodeCond h b0 = .ok i.cond ∧ decodeOperation i.cond (supergroupField b0) b1 a1 a2 = .ok i := by
  unfold decodeFields at hdec
  split at hdec
  · cases hdec
  · next cc hcond =>
    obtain ⟨rfl, -⟩ := decodeOperation_ok hdec
    exact ⟨hcond, hdec⟩

/-- Settles O2: the condition gives the first byte back (`decodeCond_ok`), the row of the table the others. -/
theorem decodedInstructionIsWellFormed : Obligations.DecodedInstructionIsWellFormed := by
  intro h w i hdec
  obtain ⟨hcond, hop⟩ := decodeFields_ok hdec
  obtain ⟨-, hsg, hopcode, harg1, harg2⟩ := decodeOperation_ok hop
  obtain ⟨hfirst, hwf⟩ := decodeCond_ok hcond (hsg ▸ supergroup_eq i)
  rw [← hsg] at hfirst
  refine ⟨hwf, ?_, ?_, fun hf => ?_, fun hf => ?_⟩
  · rw [byte0_encode, Instr.firstByte, hfirst]
  · rw [byte1_encode, hopcode]
  · rw [encode, byte2_joinBytes, harg1 hf]
  · rw [encode, byte3_joinBytes, harg2 hf]

/-- The arguments a format does not use may hold anything (R70). -/
theorem decodeOperation_used {i : Instr} {a1 a2 : Byte} (h1 : i.format ≠ .n → a1 = i.arg1)
    (h2 : i.format = .ri ∨ i.format = .rr → a2 = i.arg2) :
    decodeOperation i.cond i.supergroup i.opcode a1 a2 = .ok i := by
  have h := decodeOperation_args i
  cases i with
  | nop | hlt => exact h
  | jmpLabel | jmpReg | notR | negR | incR | decR | mirrorR =>
    rw [h1 (by simp [Instr.format])]
    exact h
  | _ => rwa [h1 (by simp [Instr.format]), h2 (by simp [Instr.format])]

/-- Settles O3: what the row of the table reads is the same in both words. -/
theorem unusedArgumentsAreIgnored : Obligations.UnusedArgumentsAreIgnored := by
  intro h w w' i hdec h0 h1 h2 h3
  obtain ⟨hcond, hop⟩ := decodeFields_ok hdec
  obtain ⟨-, hsg, hopcode, harg1, harg2⟩ := decodeOperation_ok hop
  rw [decodeWordUnder, decodeFields, h0, h1, hcond]
  dsimp only
  rw [← hsg, ← hopcode]
  exact decodeOperation_used (fun hf => by rw [h2 hf, harg1 hf]) fun hf => by rw [h3 hf, harg2 hf]

/-! ### Which words are accepted, and the reasons for the others -/

theorem Coded.validOperation {cc : Cond} {b0 b1 : Byte} {f : Format} {i : Instr} (h : Coded cc b0 b1 f i) :
    ValidOperation b0 b1 := by
  rw [ValidOperation, ← h.supergroup, ← h.opcode]
  obtain ⟨hsg, hrange⟩ | ⟨hsg, hrange⟩ := supergroup_opcode_range i
  · exact .inl ⟨by rw [hsg]; rfl, hrange⟩
  · exact .inr ⟨by rw [hsg]; rfl, hrange⟩

/-- Which arguments hold a register code, said by bytes in `BadRegister`, is said by the format. -/
theorem Coded.badRegister_iff {cc : Cond} {b0 b1 : Byte} {f : Format} {i : Instr} (h : Coded cc b0 b1 f i) (a1 a2 : Byte) :
    BadRegister b0 b1 a1 a2 ↔ (f ≠ .n ∧ f ≠ .l ∧ a1.toNat > 3) ∨ (f = .rr ∧ a2.toNat > 3) := by
  obtain ⟨-, hsg, rfl, rfl⟩ := h
  rw [BadRegister, UsesFirstRegister, UsesSecondRegister, ← hsg]
  cases i <;> simp [Instr.supergroup, Instr.opcode, Instr.format]

theorem decodeReg_eq (b : Byte) :
    (b.toNat > 3 ∧ decodeReg b = .error .invalidRegister) ∨ (¬b.toNat > 3 ∧ ∃ r, decodeReg b = .ok r) := by
  by_cases hb : b.toNat > 3
  · exact .inl ⟨hb, decodeReg_of_gt hb⟩
  · refine .inr ⟨hb, ?_⟩
    unfold decodeReg
    split
    case h_5 =>
      simp only [imp_false, ← BitVec.toNat_inj, BitVec.toNat_ofNat] at *
      omega
    all_goals exact ⟨_, rfl⟩

/-- The three answers of the operation table. -/
theorem decodeOperation_eq (cc : Cond) (b0 b1 a1 a2 : Byte) :
    (¬ValidOperation b0 b1 ∧ decodeOperation cc (supergroupField b0) b1 a1 a2 = .error .invalidEncoding) ∨
      (ValidOperation b0 b1 ∧ BadRegister b0 b1 a1 a2 ∧
        decodeOperation cc (supergroupField b0) b1 a1 a2 = .error .invalidRegister) ∨
      (ValidOperation b0 b1 ∧ ¬BadRegister b0 b1 a1 a2 ∧
        ∃ i, decodeOperation cc (supergroupField b0) b1 a1 a2 = .ok i) := by
  have hrow := decodeOperation_row cc b0 b1 a1 a2
  generalize decodeOperation cc (supergroupField b0) b1 a1 a2 = res at hrow
  cases hrow with
  | invalid notListed => exact .inl ⟨notListed, rfl⟩
  | n coded | l coded =>
    refine .inr (.inr ⟨coded.validOperation, ?_, _, rfl⟩)
    simp [coded.badRegister_iff]
  | r coded =>
    have hvalid := (coded .al).validOperation
    have hbad := (coded .al).badRegister_iff a1 a2
    obtain ⟨h1, herr⟩ | ⟨h1, d, hd⟩ := decodeReg_eq a1
    · simp [hvalid, hbad, h1, decodeR, herr]
    · simp [hvalid, hbad, h1, decodeR, hd]
  | ri coded =>
    have hvalid := (coded .al 0#8).validOperation
    have hbad := (coded .al 0#8).badRegister_iff a1 a2
    obtain ⟨h1, herr⟩ | ⟨h1, d, hd⟩ := decodeReg_eq a1
    · simp [hvalid, hbad, h1, decodeRI, herr]
    · simp [hvalid, hbad, h1, decodeRI, hd]
  | rr coded =>
    have hvalid := (coded .al .al).validOperation
    have hbad := (coded .al .al).badRegister_iff a1 a2
    obtain ⟨h1, herr⟩ | ⟨h1, d, hd⟩ := decodeReg_eq a1
    · simp [hvalid, hbad, h1, decodeRR, herr]
    · obtain ⟨h2, herr⟩ | ⟨h2, r, hr⟩ := decodeReg_eq a2
      · simp [hvalid, hbad, h2, decodeRR, hd, herr]
      · simp [hvalid, hbad, h1, h2, decodeRR, hd, hr]

/-- A first byte whose condition is read leaves the rest to the operation table. -/
theorem decodeFields_of_cond {h : HcDecode} {b0 : Byte} {cc : Cond} (hcond : decodeCond h b0 = .ok cc) (b1 a1 a2 : Byte) :
    decodeFields h b0 b1 a1 a2 = decodeOperation cc (supergroupField b0) b1 a1 a2 := by
  rw [decodeFields, hcond]

/-- Settles O7: the three checks in their order are `decodeCond_refuse` and the two errors of `decodeOperation_eq`. -/
theorem refusalReasonsInOrder : Obligations.RefusalReasonsInOrder := by
  intro b0 b1 a1 a2
  refine ⟨?_, fun he hf hbad => ?_, fun he hf hvalid hlisted hbad => ?_, fun he hf hvalid hlisted hgood => ?_⟩
  · rintro (rfl | rfl) <;> rfl
  all_goals obtain ⟨hcond, cc, hok⟩ | ⟨hcond, herr⟩ := decodeCond_refuse he hf
  · have hnot : ¬ValidOperation b0 b1 := fun hlisted => hbad ⟨hcond, hlisted⟩
    rw [decodeFields_of_cond hok]
    simpa [hnot] using decodeOperation_eq cc b0 b1 a1 a2
  · rw [decodeFields, herr]
  · rw [decodeFields_of_cond hok]
    simpa [hlisted, hbad] using decodeOperation_eq cc b0 b1 a1 a2
  · exact absurd hvalid hcond
  · rw [decodeFields_of_cond hok]
    simpa [hlisted, hgood] using decodeOperation_eq cc b0 b1 a1 a2
  · exact absurd hvalid hcond

/-- Settles O15: the flags are no part of what is fetched, and the reasons are those of `refusalReasonsInOrder`. -/
theorem rejectedWordIsRefusedBeforeItsCondition : Obligations.RejectedWordIsRefusedBeforeItsCondition := by
  rintro s _ f hrun rfl
  have hrefused : ∀ e, decodeWord s.fetch = .error e → step (s.setFlags f) = .refused (refusalOf e) :=
    fun e he => step_of_error hrun he
  obtain ⟨hambiguous, hinvalid, hregister, -⟩ :=
    refusalReasonsInOrder (byte0 s.fetch) (byte1 s.fetch) (byte2 s.fetch) (byte3 s.fetch)
  exact ⟨fun h => hrefused _ (hambiguous h), fun he hf h => hrefused _ (hinvalid he hf h),
    fun he hf hvalid hlisted h => hrefused _ (hregister he hf hvalid hlisted h)⟩

/-- Settles O8: the settings meet at the two bytes that `decodeCond` tests before the field. -/
theorem hcDecodeSettings : Obligations.HcDecodeSettings := by
  intro b1 a1 a2
  refine ⟨rfl, rfl, rfl, rfl, rfl, rfl, fun h => ⟨rfl, rfl, fun b0 he hf => ?_⟩⟩
  simp only [decodeFields, decodeCond, if_neg he, if_neg hf]

/-- Settles O6, by evaluation of the decoder. -/
theorem specWordsDecode : Obligations.SpecWordsDecode := by
  unfold Obligations.SpecWordsDecode
  decide

end Sys2Proof

/-! What a program can observe (spec/10_state.md sections 3 and 5). A relation between states that every named operation of
Machine/Ops.lean respects is respected by every instruction whose condition comes out alike, and by every step; two such relations
are "equal but for IR, RL, RH and the clock counter" and "equal but for AF". -/

namespace Sys2Proof.Machine

open Sys2Proof

/-- Related states agree on all an instruction reads but its condition, and every named operation with the same operands takes
related states to related states. -/
structure Respected (R : State → State → Prop) : Prop where
  reg {s t : State} : R s t → ∀ q, t.reg q = s.reg q
  cf {s t : State} : R s t → t.flags.cf = s.flags.cf
  pc {s t : State} : R s t → t.pc = s.pc
  halted {s t : State} : R s t → t.halted = s.halted
  imem {s t : State} : R s t → t.imem = s.imem
  draws {s t : State} : R s t → t.draws = s.draws
  setReg {s t : State} (d : Reg) (v : Byte) : R s t → R (s.setReg d v) (t.setReg d v)
  setFlags {s t : State} (f : Flags) : R s t → R (s.setFlags f) (t.setFlags f)
  setPc {s t : State} (p : Pc) : R s t → R (s.setPc p) (t.setPc p)
  advance {s t : State} : R s t → R s.advance t.advance
  setRl {s t : State} (v : Byte) : R s t → R (s.setRl v) (t.setRl v)
  setRh {s t : State} (v : Byte) : R s t → R (s.setRh v) (t.setRh v)
  setHalted {s t : State} : R s t → R s.setHalted t.setHalted
  drawn {s t : State} : R s t → R s.drawn t.drawn
  fetched {s t : State} (w : Word) : R s t → R (s.fetched w) (t.fetched w)

theorem SameOutcome.next {R : State → State → Prop} {s t : State} (h : R s t) :
    SameOutcome R (.next s) (.next t) := h

section
variable {R : State → State → Prop} (hR : Respected R) {s t : State} (h : R s t)
include hR h

/-! ### The shared operations respect the relation -/

theorem Respected.aluRegReg (f : Nat → Byte → Byte → Byte × Flags) (d r : Reg) :
    R (aluRegReg (f s.draws) d r s) (aluRegReg (f t.draws) d r t) := by
  simp only [Machine.aluRegReg, hR.reg h, hR.draws h]
  exact hR.advance (hR.setFlags _ (hR.setReg d _ (hR.setRl _ h)))

theorem Respected.compareRegReg (f : Nat → Byte → Byte → Byte × Flags) (d r : Reg) :
    R (compareRegReg (f s.draws) d r s) (compareRegReg (f t.draws) d r t) := by
  simp only [Machine.compareRegReg, hR.reg h, hR.draws h]
  exact hR.advance (hR.setFlags _ (hR.setRl _ h))

theorem Respected.aluRegImm (f : Nat → Byte → Byte → Byte × Flags) (d : Reg) (v : Byte) :
    R (aluRegImm (f s.draws) d v s) (aluRegImm (f t.draws) d v t) := by
  simp only [Machine.aluRegImm, hR.reg h, hR.draws h]
  exact hR.advance (hR.setFlags _ (hR.setReg d _ h))

theorem Respected.compareRegImm (f : Nat → Byte → Byte → Byte × Flags) (d : Reg) (v : Byte) :
    R (compareRegImm (f s.draws) d v s) (compareRegImm (f t.draws) d v t) := by
  simp only [Machine.compareRegImm, hR.reg h, hR.draws h]
  exact hR.advance (hR.setFlags _ h)

theorem Respected.aluReg {f g : Byte → Byte × Flags} (hfg : f = g) (d : Reg) : R (aluReg f d s) (aluReg g d t) := by
  simp only [Machine.aluReg, hR.reg h, hfg]
  exact hR.advance (hR.setFlags _ (hR.setReg d _ h))

theorem Respected.move (d : Reg) {v w : Byte} (hvw : v = w) : R (s.setReg d v).advance (t.setReg d w).advance :=
  hvw ▸ hR.advance (hR.setReg d v h)

theorem Respected.jump {p q : Pc} (hpq : p = q) : R (s.setPc p) (t.setPc q) := hpq ▸ hR.setPc p h

/-- MUL and DIV take their parts from the same operands. -/
theorem Respected.lowHigh (low high : Byte → Byte → Byte) (d r : Reg) :
    R (lowHigh (low (s.reg d) (s.reg r)) (high (s.reg d) (s.reg r)) d r s)
      (lowHigh (low (t.reg d) (t.reg r)) (high (t.reg d) (t.reg r)) d r t) := by
  simp only [Machine.lowHigh, hR.reg h, hR.draws h]
  refine hR.advance (hR.drawn (hR.setRh _ (hR.setRl _ (hR.setFlags _ ?_))))
  split
  · exact hR.setReg d _ h
  · exact hR.setReg r _ (hR.setReg d _ h)

/-! ### Instructions and steps respect the relation -/

/-- If the conditions come out alike, both meanings (`conditional`) skip or both follow the rule. -/
theorem Respected.branch {p q : Prop} [Decidable p] [Decidable q] (hpq : q ↔ p) {rule rule' : Result}
    (hrule : SameOutcome R rule rule') :
    SameOutcome R (if p then rule else .next s.advance) (if q then rule' else .next t.advance) := by
  by_cases hp : p
  · rwa [if_pos hp, if_pos (hpq.2 hp)]
  · rw [if_neg hp, if_neg (mt hpq.1 hp)]
    exact hR.advance h

theorem Respected.exec {i : Instr} (hcc : condHolds i.cond t.flags = condHolds i.cond s.flags) :
    SameOutcome R (exec i s) (exec i t) := by
  have hiff : condHolds i.cond t.flags = true ↔ condHolds i.cond s.flags = true := by rw [hcc]
  cases i with
  | nop cc => exact hR.branch h hiff <| .next (hR.advance h)
  | hlt cc => exact hR.branch h hiff <| .next (hR.drawn (hR.jump (hR.setHalted h) (by rw [hR.draws h])))
  | jmpLabel cc label => exact hR.branch h hiff <| .next (hR.setPc label h)
  | jmpReg cc d => exact hR.branch h hiff <| .next (hR.jump h (hR.reg h d).symm)
  | movRI cc d v => exact hR.branch h hiff <| .next (hR.move h d rfl)
  | movRR cc d r => exact hR.branch h hiff <| .next (hR.move h d (hR.reg h r).symm)
  | notR cc d => exact hR.branch h hiff <| .next (hR.move h d (by rw [hR.reg h d]))
  | mulRR cc d r =>
    exact hR.branch h hiff <| .next <|
      hR.lowHigh h (fun a b => .ofNat 8 (a.toNat * b.toNat)) (fun a b => .ofNat 8 (a.toNat * b.toNat / 256)) d r
  | divRR cc d r =>
    refine hR.branch h hiff ?_
    by_cases hzero : s.reg r = 0#8
    · rw [if_pos hzero, if_pos ((hR.reg h r).trans hzero)]
      rfl
    · rw [if_neg hzero, if_neg (hR.reg h r ▸ hzero)]
      exact .next (hR.lowHigh h (· / ·) (· % ·) d r)
  | addRR cc d r | subRR cc d r => exact hR.branch h hiff <| .next (hR.aluRegReg h (fun _ => _) d r)
  | andRR cc d r | andnRR cc d r | orRR cc d r | norRR cc d r | xorRR cc d r | xnorRR cc d r =>
    exact hR.branch h hiff <| .next (hR.drawn (hR.aluRegReg h (logic8 _) d r))
  | shrRR cc d r | shlRR cc d r | sarRR cc d r =>
    exact hR.branch h hiff <| .next (hR.drawn (hR.aluRegReg h (shift8 _) d r))
  | cmpRR cc d r => exact hR.branch h hiff <| .next (hR.compareRegReg h (fun _ => sub8) d r)
  | testRR cc d r => exact hR.branch h hiff <| .next (hR.drawn (hR.compareRegReg h (logic8 .and) d r))
  | addRI cc d v | subRI cc d v => exact hR.branch h hiff <| .next (hR.aluRegImm h (fun _ => _) d v)
  | andRI cc d v | andnRI cc d v | orRI cc d v | norRI cc d v | xorRI cc d v | xnorRI cc d v =>
    exact hR.branch h hiff <| .next (hR.drawn (hR.aluRegImm h (logic8 _) d v))
  | shrRI cc d v | shlRI cc d v | sarRI cc d v =>
    exact hR.branch h hiff <| .next (hR.drawn (hR.aluRegImm h (shift8 _) d v))
  | cmpRI cc d v => exact hR.branch h hiff <| .next (hR.compareRegImm h (fun _ => sub8) d v)
  | testRI cc d v => exact hR.branch h hiff <| .next (hR.drawn (hR.compareRegImm h (logic8 .and) d v))
  | negR cc d => exact hR.branch h hiff <| .next (hR.aluReg h rfl d)
  | incR cc d | decR cc d =>
    exact hR.branch h hiff <| .next (hR.aluReg h (by funext a; simp only [keepCarry, hR.cf h]) d)
  | mirrorR cc d => exact hR.branch h hiff <| .next (hR.drawn (hR.aluReg h (by rw [hR.draws h]) d))

/-- A step of related states that decides alike on the condition of the instruction it runs. -/
theorem Respected.step
    (hcc : ∀ i, decodeWord s.fetch = .ok i → condHolds i.cond t.flags = condHolds i.cond s.flags) :
    SameOutcome R (step s) (step t) := by
  have hfetch : t.fetch = s.fetch := by rw [State.fetch, State.fetch, hR.imem h, hR.pc h]
  by_cases hhalt : s.halted = true
  · rw [step_of_halted hhalt, step_of_halted ((hR.halted h).trans hhalt)]
    rfl
  rw [Bool.not_eq_true] at hhalt
  have hhalt' : t.halted = false := (hR.halted h).trans hhalt
  cases hdec : decodeWord s.fetch with
  | error e =>
    rw [step_of_error hhalt hdec, step_of_error hhalt' (hfetch ▸ hdec)]
    rfl
  | ok i =>
    rw [step_of_ok hhalt hdec, step_of_ok hhalt' (hfetch ▸ hdec), hfetch]
    exact hR.exec (hR.fetched _ h) (hcc i hdec)

end

/-! ### IR, RL, RH and the clock counter -/

theorem sameVisible_respected : Respected SameVisible where
  reg := fun ⟨hreg, _⟩ => hreg
  cf := fun ⟨_, _, hflags, _⟩ => by rw [hflags]
  pc := fun ⟨_, hpc, _⟩ => hpc
  halted := fun ⟨_, _, _, hhalted, _⟩ => hhalted
  imem := fun ⟨_, _, _, _, himem, _⟩ => himem
  draws := fun ⟨_, _, _, _, _, hdraws⟩ => hdraws
  setReg d v := fun ⟨hreg, hrest⟩ => ⟨fun q => by simp only [State.setReg_reg, hreg], by simpa using hrest⟩
  setFlags f h := by simp_all [SameVisible]
  setPc p h := by simp_all [SameVisible]
  advance h := by simp_all [SameVisible]
  setRl v h := by simp_all [SameVisible]
  setRh v h := by simp_all [SameVisible]
  setHalted h := by simp_all [SameVisible]
  drawn h := by simp_all [SameVisible]
  fetched w h := by simp_all [SameVisible]

/-- Settles O58: conditions read the flags, and these are visible. -/
theorem hiddenRegistersAreNotObservable : Obligations.HiddenRegistersAreNotObservable := by
  intro s t h
  refine sameVisible_respected.step h fun i _ => ?_
  obtain ⟨-, -, hflags, -⟩ := h
  rw [hflags]

/-! ### AF -/

/-- The state with another AF. -/
def State.withAf (s : State) (b : Bool) : State := { s with flags := { s.flags with af := b } }

theorem sameButAf_iff {s t : State} : SameButAf s t ↔ ∃ b, t = s.withAf b := by
  constructor
  · exact fun h => ⟨_, h⟩
  · rintro ⟨b, rfl⟩
    rfl

/-- An operation that carries AF along unread keeps states equal but for AF. -/
theorem SameButAf.map {s t : State} (h : SameButAf s t) (f : State → State) (hf : ∀ b, f (s.withAf b) = (f s).withAf b) :
    SameButAf (f s) (f t) := by
  obtain ⟨b, rfl⟩ := sameButAf_iff.1 h
  exact sameButAf_iff.2 ⟨b, hf b⟩

theorem sameButAf_respected : Respected SameButAf where
  reg h q := by
    rw [h]
    cases q <;> rfl
  cf h := by rw [h]
  pc h := by rw [h]
  halted h := by rw [h]
  imem h := by rw [h]
  draws h := by rw [h]
  setReg d v h := h.map (·.setReg d v) fun _ => by cases d <;> rfl
  setFlags f h := by
    rw [h]
    rfl
  setPc p h := h.map (·.setPc p) fun _ => rfl
  advance h := h.map State.advance fun _ => rfl
  setRl v h := h.map (·.setRl v) fun _ => rfl
  setRh v h := h.map (·.setRh v) fun _ => rfl
  setHalted h := h.map State.setHalted fun _ => rfl
  drawn h := h.map State.drawn fun _ => rfl
  fetched w h := h.map (·.fetched w) fun _ => rfl

/-- Only HC and NHC read AF. -/
theorem condHolds_af {cc : Cond} (f : Flags) (b : Bool) (hhc : cc ≠ .hc) (hnhc : cc ≠ .nhc) :
    condHolds cc { f with af := b } = condHolds cc f := by
  cases cc with
  | hc => exact absurd rfl hhc
  | nhc => exact absurd rfl hnhc
  | _ => rfl

/-- The default decoder accepts no word as an instruction with the condition HC or NHC (R64). -/
theorem decodeWord_cond_ne {w : Word} {i : Instr} (h : decodeWord w = .ok i) : i.cond ≠ .hc ∧ i.cond ≠ .nhc := by
  obtain ⟨hwf, -⟩ := decodedInstructionIsWellFormed .refuse w i h
  constructor <;> intro hcond <;> simp [Instr.wellFormed, hcond, condEncodable] at hwf

/-- Settles O59: no condition that the default decoder accepts reads AF. -/
theorem auxiliaryCarryIsWriteOnly : Obligations.AuxiliaryCarryIsWriteOnly := by
  intro s t h
  refine sameButAf_respected.step h fun i hdec => ?_
  obtain ⟨hhc, hnhc⟩ := decodeWord_cond_ne hdec
  obtain ⟨b, rfl⟩ := sameButAf_iff.1 h
  exact condHolds_af s.flags b hhc hnhc

end Sys2Proof.Machine

/-! The instructions by operand form, and those of supergroup 0 (spec/41_supergroup0_basic.md R120 to R127). A form
gives the encoding and all that an instruction keeps; what is left to say is its result and its flags. -/

namespace Sys2Proof.Machine

open Sys2Proof

/-! ### Encodings by format -/

theorem codedRR {sg : BitVec 3} {b1 : Byte} {n : Nat} {mk : Cond → Reg → Reg → Instr}
    (hdec : ∀ cc a1 a2, decodeOperation cc sg b1 a1 a2 = decodeRR a1 a2 (mk cc))
    (hcycles : ∀ cc d r, cycles (mk cc d r) = n) : CodedRR sg b1 n mk := by
  refine ⟨fun cc d r => ⟨by simp [hdec, decodeRR], hcycles cc d r⟩, fun cc a1 a2 hbad => ?_⟩
  rw [hdec, decodeRR]
  obtain ⟨-, herr⟩ | ⟨h1, d, hd⟩ := decodeReg_eq a1
  · rw [herr]
  · rw [hd, decodeReg_of_gt (hbad.resolve_left h1)]

theorem codedRI {sg : BitVec 3} {b1 : Byte} {n : Nat} {mk : Cond → Reg → Byte → Instr}
    (hdec : ∀ cc a1 a2, decodeOperation cc sg b1 a1 a2 = decodeRI a1 a2 (mk cc))
    (hcycles : ∀ cc d v, cycles (mk cc d v) = n) : CodedRI sg b1 n mk :=
  ⟨fun cc d v => ⟨by simp [hdec, decodeRI], hcycles cc d v⟩,
    fun cc a1 a2 hbad => by rw [hdec, decodeRI, decodeReg_of_gt hbad]⟩

theorem codedR {sg : BitVec 3} {b1 : Byte} {n : Nat} {mk : Cond → Reg → Instr}
    (hdec : ∀ cc a1 a2, decodeOperation cc sg b1 a1 a2 = decodeR a1 (mk cc))
    (hcycles : ∀ cc d, cycles (mk cc d) = n) : CodedR sg b1 n mk :=
  ⟨fun cc d a2 => ⟨by simp [hdec, decodeR], hcycles cc d⟩,
    fun cc a1 a2 hbad => by rw [hdec, decodeR, decodeReg_of_gt hbad]⟩

/-! ### The operand forms: the destination, the flags, and the rest -/

@[simp] theorem aluRegReg_dest (f : Byte → Byte → Byte × Flags) (d r : Reg) (s : State) :
    (aluRegReg f d r s).reg d = (f (s.reg d) (s.reg r)).1 := by
  simp [aluRegReg_spec]

@[simp] theorem aluRegReg_flags (f : Byte → Byte → Byte × Flags) (d r : Reg) (s : State) :
    (aluRegReg f d r s).flags = (f (s.reg d) (s.reg r)).2 := rfl

theorem aluRegReg_rest (f : Byte → Byte → Byte × Flags) (d r : Reg) (s : State) :
    (aluRegReg f d r s).rl = s.reg d ∧ (aluRegReg f d r s).rh = s.rh ∧ PcNext s (aluRegReg f d r s) ∧
      KeptBut [d] s (aluRegReg f d r s) :=
  have frame := aluRegReg_frame f d r s
  ⟨by simp [aluRegReg_spec], by simp [aluRegReg_spec], frame.pcNext, frame.keptBut⟩

@[simp] theorem compareRegReg_flags (f : Byte → Byte → Byte × Flags) (d r : Reg) (s : State) :
    (compareRegReg f d r s).flags = (f (s.reg d) (s.reg r)).2 := rfl

theorem compareRegReg_rest (f : Byte → Byte → Byte × Flags) (d r : Reg) (s : State) :
    (compareRegReg f d r s).rl = s.reg d ∧ (compareRegReg f d r s).rh = s.rh ∧ PcNext s (compareRegReg f d r s) ∧
      KeptBut [] s (compareRegReg f d r s) :=
  have frame := compareRegReg_frame f d r s
  ⟨rfl, rfl, frame.pcNext, frame.keptBut⟩

@[simp] theorem aluRegImm_dest (f : Byte → Byte → Byte × Flags) (d : Reg) (v : Byte) (s : State) :
    (aluRegImm f d v s).reg d = (f (s.reg d) v).1 := by
  simp [aluRegImm_spec]

@[simp] theorem aluRegImm_flags (f : Byte → Byte → Byte × Flags) (d : Reg) (v : Byte) (s : State) :
    (aluRegImm f d v s).flags = (f (s.reg d) v).2 := rfl

theorem aluRegImm_rest (f : Byte → Byte → Byte × Flags) (d : Reg) (v : Byte) (s : State) :
    PartsKept s (aluRegImm f d v s) ∧ PcNext s (aluRegImm f d v s) ∧ KeptBut [d] s (aluRegImm f d v s) :=
  have frame := aluRegImm_frame f d v s
  ⟨by simp [PartsKept, aluRegImm_spec], frame.pcNext, frame.keptBut⟩

@[simp] theorem compareRegImm_flags (f : Byte → Byte → Byte × Flags) (d : Reg) (v : Byte) (s : State) :
    (compareRegImm f d v s).flags = (f (s.reg d) v).2 := rfl

theorem compareRegImm_rest (f : Byte → Byte → Byte × Flags) (d : Reg) (v : Byte) (s : State) :
    PartsKept s (compareRegImm f d v s) ∧ PcNext s (compareRegImm f d v s) ∧ KeptBut [] s (compareRegImm f d v s) :=
  have frame := compareRegImm_frame f d v s
  ⟨⟨rfl, rfl⟩, frame.pcNext, frame.keptBut⟩

@[simp] theorem aluReg_dest (f : Byte → Byte × Flags) (d : Reg) (s : State) :
    (aluReg f d s).reg d = (f (s.reg d)).1 := by
  simp [aluReg_spec]

@[simp] theorem aluReg_flags (f : Byte → Byte × Flags) (d : Reg) (s : State) :
    (aluReg f d s).flags = (f (s.reg d)).2 := rfl

theorem aluReg_rest (f : Byte → Byte × Flags) (d : Reg) (s : State) :
    PartsKept s (aluReg f d s) ∧ PcNext s (aluReg f d s) ∧ KeptBut [d] s (aluReg f d s) :=
  have frame := aluReg_frame f d s
  ⟨by simp [PartsKept, aluReg_spec], frame.pcNext, frame.keptBut⟩

/-- MOV and NOT: the register, the flags and the rest. -/
theorem setReg_advance_spec (d : Reg) (v : Byte) (s : State) :
    (s.setReg d v).advance.reg d = v ∧ (s.setReg d v).advance.flags = s.flags ∧ PartsKept s (s.setReg d v).advance ∧
      PcNext s (s.setReg d v).advance ∧ KeptBut [d] s (s.setReg d v).advance :=
  have frame := setReg_advance_frame d v s
  ⟨by simp, by simp, by simp [PartsKept], frame.pcNext, frame.keptBut⟩

/-! ### Supergroup 0 -/

/-- Settles O21: a case of `condHolds` for each condition. -/
theorem conditionTable : Obligations.ConditionTable := by
  rintro ⟨cf, pf, vf, af, zf, sf⟩
  cases vf <;> cases sf <;> simp [condHolds]

/-- Settles O23: the rule and the skip are the same. -/
theorem nopOnlyAdvances : Obligations.NopOnlyAdvances := by
  refine ⟨fun _ _ _ => ⟨rfl, rfl⟩, fun cc s => ?_⟩
  by_cases hc : condHolds cc s.flags = true
  · exact exec_nop hc
  · exact exec_of_false (Bool.not_eq_true _ ▸ hc)

/-- Settles O24: the named operations of HLT are `setHalted`, `setPc` and `drawn`. -/
theorem hltHalts : Obligations.HltHalts := by
  refine ⟨fun _ _ _ => ⟨rfl, rfl⟩, fun cc s hc => ?_⟩
  exact ⟨_, exec_hlt hc, rfl, fun q _ => by simp, rfl, fun _ => rfl, ⟨rfl, rfl⟩, rfl, rfl⟩

/-- Settles O25: a case for each answer of the condition. -/
theorem jumpToLabel : Obligations.JumpToLabel := by
  refine ⟨fun _ _ _ => ⟨rfl, rfl⟩, fun cc label s => ?_⟩
  by_cases hc : condHolds cc s.flags = true
  · rw [exec_jmpLabel label hc, if_pos hc]
    rfl
  · rw [if_neg hc]
    exact exec_of_false (Bool.not_eq_true _ ▸ hc)

/-- Settles O26: a taken jump is `State.setPc`. -/
theorem jumpToRegister : Obligations.JumpToRegister :=
  ⟨codedR (fun _ _ _ => rfl) fun _ _ => rfl, fun _ d _ hc => exec_jmpReg d hc⟩

/-- Settles O27: `setReg_advance_spec` of the immediate. -/
theorem moveImmediate : Obligations.MoveImmediate :=
  ⟨codedRI (fun _ _ _ => rfl) fun _ _ _ => rfl, fun _ d v s hc => ⟨_, exec_movRI d v hc, setReg_advance_spec d v s⟩⟩

/-- Settles O28: `setReg_advance_spec` of the second register's value. -/
theorem moveRegister : Obligations.MoveRegister :=
  ⟨codedRR (fun _ _ _ => rfl) fun _ _ _ => rfl, fun _ d r s hc => ⟨_, exec_movRR d r hc, setReg_advance_spec d (s.reg r) s⟩⟩

/-- Two different registers hold the two parts. -/
theorem lowHigh_dest (low high : Byte) {d r : Reg} (hne : d ≠ r) (s : State) :
    (lowHigh low high d r s).reg d = low ∧ (lowHigh low high d r s).reg r = high := by
  simp [lowHigh_spec, hne]

theorem lowHigh_cf (low high : Byte) (d r : Reg) (s : State) :
    (lowHigh low high d r s).flags.cf = true ↔ high.toNat ≠ 0 := by
  simp [lowHigh_spec, highPartFlags, ← BitVec.toNat_inj]

/-- The bytes of a product of two bytes. -/
theorem product_parts (a b : Byte) :
    (BitVec.ofNat 8 (a.toNat * b.toNat)).toNat + 256 * (BitVec.ofNat 8 (a.toNat * b.toNat / 256)).toNat =
        a.toNat * b.toNat ∧
      ((BitVec.ofNat 8 (a.toNat * b.toNat / 256)).toNat ≠ 0 ↔ a.toNat * b.toNat > 255) := by
  have hlt : a.toNat * b.toNat < 256 * 256 := Nat.mul_lt_mul'' a.isLt b.isLt
  simp only [BitVec.toNat_ofNat]
  omega

/-- Settles O29: `product_parts` of the two operands. -/
theorem multiplyRegisters : Obligations.MultiplyRegisters := by
  refine ⟨codedRR (fun _ _ _ => rfl) fun _ _ _ => rfl, fun cc d r s hc => ?_⟩
  obtain ⟨hsum, hcarry⟩ := product_parts (s.reg d) (s.reg r)
  have hexec := exec_mulRR d r hc
  generalize BitVec.ofNat 8 ((s.reg d).toNat * (s.reg r).toNat) = low at hsum hexec
  generalize BitVec.ofNat 8 ((s.reg d).toNat * (s.reg r).toNat / 256) = high at hsum hcarry hexec
  have frame := lowHigh_frame low high d r s
  refine ⟨_, hexec, fun hne => ?_, ?_, ?_, frame.pcNext, frame.keptBut⟩
  · obtain ⟨hlow, hhigh⟩ := lowHigh_dest low high hne s
    rw [hlow, hhigh, hsum]
  · rw [lowHigh_cf, hcarry]
  · simpa [lowHigh_spec] using hsum

/-- The quotient and the remainder of two bytes. -/
theorem quotient_remainder (a : Byte) {b : Byte} (hb : b.toNat ≠ 0) :
    a.toNat = (a / b).toNat * b.toNat + (a % b).toNat ∧ (a % b).toNat < b.toNat ∧
      ((a % b).toNat ≠ 0 ↔ ¬b.toNat ∣ a.toNat) := by
  rw [BitVec.toNat_udiv, BitVec.toNat_umod]
  exact ⟨(Nat.div_add_mod' _ _).symm, Nat.mod_lt _ (Nat.pos_of_ne_zero hb), not_congr (Nat.dvd_iff_mod_eq_zero).symm⟩

/-- Settles O30: `quotient_remainder` of the two operands, or the refusal. -/
theorem divideRegisters : Obligations.DivideRegisters := by
  refine ⟨codedRR (fun _ _ _ => rfl) fun _ _ _ => rfl, fun cc d r s hc => ⟨fun hb => ?_, fun hb => ?_⟩⟩
  · have hne0 : s.reg r ≠ 0#8 := fun h => hb (by rw [h]; rfl)
    obtain ⟨hsum, hlt, hrem⟩ := quotient_remainder (s.reg d) hb
    have frame := lowHigh_frame (s.reg d / s.reg r) (s.reg d % s.reg r) d r s
    refine ⟨_, (exec_divRR d r hc).trans (if_neg hne0), fun hne => ?_, ?_, ?_, ?_, frame.pcNext, frame.keptBut⟩
    · obtain ⟨hquot, hrest⟩ := lowHigh_dest (s.reg d / s.reg r) (s.reg d % s.reg r) hne s
      rw [hquot, hrest]
      exact ⟨hsum, hlt⟩
    · rw [lowHigh_cf, hrem]
    · simpa [lowHigh_spec] using hsum
    · simpa [lowHigh_spec] using hlt
  · rw [exec_divRR d r hc, if_pos (BitVec.eq_of_toNat_eq hb)]

end Sys2Proof.Machine

/-! The instructions of supergroup 1 (spec/42_supergroup1_sub0_alu_reg.md, spec/43_supergroup1_sub1_alu_imm.md): each is an operand
form around `logic8`, `add8`, `sub8`, `shift8` or `mirror8`. -/

namespace Sys2Proof.Machine

open Sys2Proof

/-! ### Logical instructions -/

/-- The operation on one bit (R100). -/
def LogicOp.bit : LogicOp → Bool → Bool → Bool
  | .and => fun x y => x && y
  | .andn => fun x y => !(x && y)
  | .or => fun x y => x || y
  | .nor => fun x y => !(x || y)
  | .xor => fun x y => x != y
  | .xnor => fun x y => x == y

theorem logicResult_bitwise (op : LogicOp) (a b : Byte) : Bitwise op.bit a b (logicResult op a b) := by
  intro k hk
  cases op with
  | xnor =>
    simp only [logicResult, LogicOp.bit, BitVec.getLsbD_not, BitVec.getLsbD_xor, hk]
    cases a.getLsbD k <;> simp
  | _ => simp [logicResult, LogicOp.bit, hk]

/-- An instruction that is `logic8` between registers has the form of R140 to R145. -/
theorem logicRegForm {b1 : Byte} {mk : Cond → Reg → Reg → Instr} (op : LogicOp) (hcoded : CodedRR 1#3 b1 2 mk)
    (hexec : ∀ cc d r s, condHolds cc s.flags = true →
      exec (mk cc d r) s = .next (aluRegReg (logic8 op s.draws) d r s).drawn) : LogicRegForm b1 mk op.bit := by
  refine ⟨hcoded, fun cc d r s hc => ⟨_, hexec cc d r s hc, ?_⟩⟩
  simp only [State.drawn_reg, State.drawn_flags, aluRegReg_dest, aluRegReg_flags]
  exact ⟨logicResult_bitwise op _ _, logic8_flags op _ _ _, aluRegReg_rest _ d r s⟩

/-- An instruction that is `logic8` with an immediate has the form of R170 to R175. -/
theorem logicImmForm {b1 : Byte} {mk : Cond → Reg → Byte → Instr} (op : LogicOp) (hcoded : CodedRI 1#3 b1 1 mk)
    (hexec : ∀ cc d v s, condHolds cc s.flags = true →
      exec (mk cc d v) s = .next (aluRegImm (logic8 op s.draws) d v s).drawn) : LogicImmForm b1 mk op.bit := by
  refine ⟨hcoded, fun cc d v s hc => ⟨_, hexec cc d v s hc, ?_⟩⟩
  simp only [State.drawn_reg, State.drawn_flags, aluRegImm_dest, aluRegImm_flags]
  exact ⟨logicResult_bitwise op _ _, logic8_flags op _ _ _, aluRegImm_rest _ d v s⟩

/-- Settles O31: `logicRegForm` six times. -/
theorem logicBetweenRegisters : Obligations.LogicBetweenRegisters :=
  ⟨logicRegForm .and (codedRR (fun _ _ _ => rfl) fun _ _ _ => rfl) fun _ d r _ => exec_andRR d r,
    logicRegForm .andn (codedRR (fun _ _ _ => rfl) fun _ _ _ => rfl) fun _ d r _ => exec_andnRR d r,
    logicRegForm .or (codedRR (fun _ _ _ => rfl) fun _ _ _ => rfl) fun _ d r _ => exec_orRR d r,
    logicRegForm .nor (codedRR (fun _ _ _ => rfl) fun _ _ _ => rfl) fun _ d r _ => exec_norRR d r,
    logicRegForm .xor (codedRR (fun _ _ _ => rfl) fun _ _ _ => rfl) fun _ d r _ => exec_xorRR d r,
    logicRegForm .xnor (codedRR (fun _ _ _ => rfl) fun _ _ _ => rfl) fun _ d r _ => exec_xnorRR d r⟩

/-- Settles O32: `logicImmForm` six times. -/
theorem logicWithImmediate : Obligations.LogicWithImmediate :=
  ⟨logicImmForm .and (codedRI (fun _ _ _ => rfl) fun _ _ _ => rfl) fun _ d v _ => exec_andRI d v,
    logicImmForm .andn (codedRI (fun _ _ _ => rfl) fun _ _ _ => rfl) fun _ d v _ => exec_andnRI d v,
    logicImmForm .or (codedRI (fun _ _ _ => rfl) fun _ _ _ => rfl) fun _ d v _ => exec_orRI d v,
    logicImmForm .nor (codedRI (fun _ _ _ => rfl) fun _ _ _ => rfl) fun _ d v _ => exec_norRI d v,
    logicImmForm .xor (codedRI (fun _ _ _ => rfl) fun _ _ _ => rfl) fun _ d v _ => exec_xorRI d v,
    logicImmForm .xnor (codedRI (fun _ _ _ => rfl) fun _ _ _ => rfl) fun _ d v _ => exec_xnorRI d v⟩

/-- Settles O38: the flags are those of `logic8 .and`. -/
theorem testWritesOnlyFlags : Obligations.TestWritesOnlyFlags := by
  refine ⟨codedRR (fun _ _ _ => rfl) fun _ _ _ => rfl, codedRI (fun _ _ _ => rfl) fun _ _ _ => rfl,
    fun cc d r s hc => ⟨_, exec_testRR d r hc, ?_, compareRegReg_rest _ d r s⟩,
    fun cc d v s hc => ⟨_, exec_testRI d v hc, ?_, compareRegImm_rest _ d v s⟩⟩
  · exact logic8_flags .and s.draws (s.reg d) (s.reg r)
  · exact logic8_flags .and s.draws (s.reg d) v

/-! ### Addition and subtraction -/

/-- Settles O33: the result and flags of `add8`. -/
theorem addRegisters : Obligations.AddRegisters := by
  refine ⟨codedRR (fun _ _ _ => rfl) fun _ _ _ => rfl, fun cc d r s hc => ⟨_, exec_addRR d r hc, ?_⟩⟩
  obtain ⟨hcarry, hflags⟩ := add8_flags (s.reg d) (s.reg r)
  simp only [aluRegReg_dest, aluRegReg_flags]
  exact ⟨add8_toNat _ _, hcarry, hflags, aluRegReg_rest _ d r s⟩

/-- Settles O34: the result and flags of `add8`. -/
theorem addImmediate : Obligations.AddImmediate := by
  refine ⟨codedRI (fun _ _ _ => rfl) fun _ _ _ => rfl, fun cc d v s hc => ⟨_, exec_addRI d v hc, ?_⟩⟩
  obtain ⟨hcarry, hflags⟩ := add8_flags (s.reg d) v
  simp only [aluRegImm_dest, aluRegImm_flags]
  exact ⟨add8_toNat _ _, hcarry, hflags, aluRegImm_rest _ d v s⟩

/-- Settles O35: the result and flags of `sub8`. -/
theorem subtractRegisters : Obligations.SubtractRegisters := by
  refine ⟨codedRR (fun _ _ _ => rfl) fun _ _ _ => rfl, fun cc d r s hc => ⟨_, exec_subRR d r hc, ?_⟩⟩
  obtain ⟨hborrow, hflags⟩ := sub8_flags (s.reg d) (s.reg r)
  simp only [aluRegReg_dest, aluRegReg_flags]
  exact ⟨sub8_toNat _ _, hborrow, hflags, aluRegReg_rest _ d r s⟩

/-- Settles O36: the result and flags of `sub8`. -/
theorem subtractImmediate : Obligations.SubtractImmediate := by
  refine ⟨codedRI (fun _ _ _ => rfl) fun _ _ _ => rfl, fun cc d v s hc => ⟨_, exec_subRI d v hc, ?_⟩⟩
  obtain ⟨hborrow, hflags⟩ := sub8_flags (s.reg d) v
  simp only [aluRegImm_dest, aluRegImm_flags]
  exact ⟨sub8_toNat _ _, hborrow, hflags, aluRegImm_rest _ d v s⟩

/-- Settles O37: the flags of `sub8`. -/
theorem compareWritesOnlyFlags : Obligations.CompareWritesOnlyFlags := by
  refine ⟨codedRR (fun _ _ _ => rfl) fun _ _ _ => rfl, codedRI (fun _ _ _ => rfl) fun _ _ _ => rfl,
    fun cc d r s hc => ⟨_, exec_cmpRR d r hc, ?_⟩, fun cc d v s hc => ⟨_, exec_cmpRI d v hc, ?_⟩⟩
  · obtain ⟨hborrow, hflags⟩ := sub8_flags (s.reg d) (s.reg r)
    rw [sub8_fst] at hflags
    exact ⟨hborrow, hflags, compareRegReg_rest _ d r s⟩
  · obtain ⟨hborrow, hflags⟩ := sub8_flags (s.reg d) v
    rw [sub8_fst] at hflags
    exact ⟨hborrow, hflags, compareRegImm_rest _ d v s⟩

/-- The conditions on the flags of a difference (R93): ZF is equality, CF the unsigned order, SF against VF the signed one. -/
theorem sub8_comparisonConditions (a b : Byte) : ComparisonConditions a b (sub8 a b).2 := by
  have hzf : (sub8 a b).2.zf = decide (a = b) := by
    show zeroFlag (sub8 a b).1 = _
    rw [sub8_fst, zeroFlag, Bool.eq_iff_iff, beq_iff_eq, decide_eq_true_iff]
    exact sub_eq_zero
  have hsf : (sub8 a b).2.sf = (a - b).getLsbD 7 := by
    show signFlag (sub8 a b).1 = _
    rw [sub8_fst, signFlag]
  have hcf : (sub8 a b).2.cf = decide (a.toNat < b.toNat) := rfl
  have hlt := sub8_conditions a b
  have hsigned : a = b ↔ a.toInt = b.toInt := BitVec.toInt_inj.symm
  have hunsigned : a = b ↔ a.toNat = b.toNat := BitVec.toNat_inj.symm
  simp only [ComparisonConditions, condHolds, hlt]
  simp only [hzf, hsf, hcf, Bool.not_eq_true', Bool.or_eq_false_iff, Bool.or_eq_true, decide_eq_false_iff_not,
    decide_eq_true_eq]
  refine ⟨trivial, trivial, trivial, trivial, ?_, Int.not_lt, trivial, ?_, ?_, Nat.not_lt, trivial, ?_⟩
  · rw [hsigned]
    omega
  · rw [hsigned]
    omega
  · rw [hunsigned]
    omega
  · rw [hunsigned]
    omega

/-- Settles O22: CMP and SUB leave the flags of `sub8`. -/
theorem conditionsAfterCompare : Obligations.ConditionsAfterCompare := fun d r v _ =>
  ⟨⟨_, exec_cmpRR d r rfl, sub8_comparisonConditions _ _⟩, ⟨_, exec_cmpRI d v rfl, sub8_comparisonConditions _ _⟩,
    ⟨_, exec_subRR d r rfl, sub8_comparisonConditions _ _⟩, ⟨_, exec_subRI d v rfl, sub8_comparisonConditions _ _⟩⟩

/-! ### Shifts -/

/-- Bit `k` of a shift by a count of 1 to 7 (R101 to R103). -/
def ShiftOp.bit : ShiftOp → Byte → Nat → Nat → Bool
  | .shr => fun a n k => if k + n < 8 then a.getLsbD (k + n) else false
  | .shl => fun a n k => if k < n then false else a.getLsbD (k - n)
  | .sar => fun a n k => if k + n < 8 then a.getLsbD (k + n) else a.getLsbD 7

theorem shiftResult_shr (a : Byte) (n : Nat) : shiftResult .shr a n = a >>> n := by
  have hlt : a.toNat / 2 ^ n < 256 := Nat.lt_of_le_of_lt (Nat.div_le_self _ _) a.isLt
  apply BitVec.eq_of_toNat_eq
  rw [shiftResult, BitVec.toNat_ofNat, BitVec.toNat_ushiftRight, Nat.shiftRight_eq_div_pow, Nat.mod_eq_of_lt hlt]

theorem shiftResult_shl (a : Byte) (n : Nat) : shiftResult .shl a n = a <<< n := by
  apply BitVec.eq_of_toNat_eq
  rw [shiftResult, BitVec.toNat_ofNat, BitVec.toNat_shiftLeft, Nat.shiftLeft_eq]

theorem shiftResult_sar (a : Byte) (n : Nat) : shiftResult .sar a n = a.sshiftRight n := by
  rw [shiftResult, BitVec.sshiftRight, Int.shiftRight_eq_div_pow]
  norm_cast

theorem shiftResult_bit (op : ShiftOp) (a : Byte) (n : Nat) {k : Nat} (hk : k < 8) :
    (shiftResult op a n).getLsbD k = op.bit a n k := by
  cases op with
  | shr =>
    rw [shiftResult_shr, BitVec.getLsbD_ushiftRight, Nat.add_comm n k]
    dsimp only [ShiftOp.bit]
    split
    · rfl
    · exact BitVec.getLsbD_of_ge _ _ (by omega)
  | shl =>
    rw [shiftResult_shl, BitVec.getLsbD_shiftLeft]
    by_cases hkn : k < n <;> simp only [ShiftOp.bit, hk, hkn] <;> simp
  | sar =>
    rw [shiftResult_sar, BitVec.getLsbD_sshiftRight, ShiftOp.bit, Nat.add_comm n k, BitVec.msb_eq_getLsbD_last]
    by_cases hkn : k + n < 8 <;> simp [hk, hkn]

theorem shift8_outcome (op : ShiftOp) (k : Nat) (a n : Byte) :
    ShiftOutcome op.bit (shiftCarry op) a n (shift8 op k a n).1 (shift8 op k a n).2 := by
  refine ⟨shift8_zero op k, fun hn => ?_⟩
  obtain ⟨hresult, hcarry, hflags⟩ := shift8_small op k (a := a) hn
  refine ⟨fun j hj => ?_, hcarry, hflags⟩
  rw [hresult, shiftResult_bit op a _ hj]

/-- A pair of instructions that are `shift8` has the forms of R152 to R154 and R182 to R184. -/
theorem shiftForms {b1 b1' : Byte} {mk : Cond → Reg → Reg → Instr} {mk' : Cond → Reg → Byte → Instr} (op : ShiftOp)
    (hcoded : CodedRR 1#3 b1 2 mk) (hcoded' : CodedRI 1#3 b1' 1 mk')
    (hexec : ∀ cc d r s, condHolds cc s.flags = true →
      exec (mk cc d r) s = .next (aluRegReg (shift8 op s.draws) d r s).drawn)
    (hexec' : ∀ cc d v s, condHolds cc s.flags = true →
      exec (mk' cc d v) s = .next (aluRegImm (shift8 op s.draws) d v s).drawn) :
    ShiftForms b1 b1' mk mk' op.bit (shiftCarry op) := by
  refine ⟨hcoded, hcoded', fun cc d r s hc => ⟨_, hexec cc d r s hc, ?_⟩, fun cc d v s hc => ⟨_, hexec' cc d v s hc, ?_⟩⟩
  · simp only [State.drawn_reg, State.drawn_flags, aluRegReg_dest, aluRegReg_flags]
    exact ⟨shift8_outcome op _ _ _, aluRegReg_rest _ d r s⟩
  · simp only [State.drawn_reg, State.drawn_flags, aluRegImm_dest, aluRegImm_flags]
    exact ⟨shift8_outcome op _ _ _, aluRegImm_rest _ d v s⟩

/-- Settles O39: `shiftForms`. -/
theorem shiftRightLogical : Obligations.ShiftRightLogical :=
  shiftForms .shr (codedRR (fun _ _ _ => rfl) fun _ _ _ => rfl) (codedRI (fun _ _ _ => rfl) fun _ _ _ => rfl)
    (fun _ d r _ => exec_shrRR d r) fun _ d v _ => exec_shrRI d v

/-- Settles O40: `shiftForms`. -/
theorem shiftLeft : Obligations.ShiftLeft :=
  shiftForms .shl (codedRR (fun _ _ _ => rfl) fun _ _ _ => rfl) (codedRI (fun _ _ _ => rfl) fun _ _ _ => rfl)
    (fun _ d r _ => exec_shlRR d r) fun _ d v _ => exec_shlRI d v

/-- Settles O41: `shiftForms`. -/
theorem shiftRightArithmetic : Obligations.ShiftRightArithmetic :=
  shiftForms .sar (codedRR (fun _ _ _ => rfl) fun _ _ _ => rfl) (codedRI (fun _ _ _ => rfl) fun _ _ _ => rfl)
    (fun _ d r _ => exec_sarRR d r) fun _ d v _ => exec_sarRI d v

/-! ### One register -/

/-- Settles O42: `setReg_advance_spec` of the complement. -/
theorem notComplements : Obligations.NotComplements := by
  refine ⟨codedR (fun _ _ _ => rfl) fun _ _ => rfl, fun cc d s hc => ⟨_, exec_notR d hc, ?_⟩⟩
  obtain ⟨hdest, hrest⟩ := setReg_advance_spec d (~~~(s.reg d)) s
  refine ⟨?_, hrest⟩
  rw [hdest, BitVec.toNat_not]

/-- The flags of a subtraction from 0: a borrow unless the operand is 0, overflow at 128 alone. -/
theorem sub8_zero_flags (a : Byte) :
    ((sub8 0#8 a).2.cf = true ↔ a.toNat ≠ 0) ∧ ((sub8 0#8 a).2.vf = true ↔ a.toNat = 128) ∧
      ((sub8 0#8 a).2.af = true ↔ a.toNat % 16 ≠ 0) ∧ ResultFlags (sub8 0#8 a).1 (sub8 0#8 a).2 := by
  obtain ⟨hborrow, haf, hvf, hresult⟩ := sub8_flags 0#8 a
  have ha := a.isLt
  have hzero : (0#8).toNat = 0 := rfl
  refine ⟨hborrow.trans ?_, hvf.trans ?_, haf.trans ?_, hresult⟩
  · rw [hzero]
    omega
  · rw [toInt_cases, toInt_cases, hzero]
    split <;> split <;> omega
  · rw [hzero]
    omega

/-- Settles O43: `sub8_zero_flags` of the register. -/
theorem negateRegister : Obligations.NegateRegister := by
  refine ⟨codedR (fun _ _ _ => rfl) fun _ _ => rfl, fun cc d s hc => ⟨_, exec_negR d hc, ?_⟩⟩
  obtain ⟨hcf, hvf, haf, hresult⟩ := sub8_zero_flags (s.reg d)
  simp only [aluReg_dest, aluReg_flags]
  exact ⟨sub8_toNat 0#8 _, hcf, hvf, haf, hresult, aluReg_rest _ d s⟩

/-- Settles O44: the result and, but for CF, the flags of `add8`. -/
theorem incrementKeepsCarry : Obligations.IncrementKeepsCarry := by
  refine ⟨codedR (fun _ _ _ => rfl) fun _ _ => rfl, fun cc d s hc => ⟨_, exec_incR d hc, ?_⟩⟩
  obtain ⟨-, hflags⟩ := add8_flags (s.reg d) 1#8
  simp only [aluReg_dest, aluReg_flags]
  exact ⟨add8_toNat _ 1#8, rfl, hflags, aluReg_rest _ d s⟩

/-- Settles O45: the result and, but for CF, the flags of `sub8`. -/
theorem decrementKeepsCarry : Obligations.DecrementKeepsCarry := by
  refine ⟨codedR (fun _ _ _ => rfl) fun _ _ => rfl, fun cc d s hc => ⟨_, exec_decR d hc, ?_⟩⟩
  obtain ⟨-, hflags⟩ := sub8_flags (s.reg d) 1#8
  simp only [aluReg_dest, aluReg_flags]
  refine ⟨?_, rfl, hflags, aluReg_rest _ d s⟩
  rw [sub8_toNat, show (1#8).toNat = 1 from rfl]
  omega

/-- Settles O46: `mirror8_bit`. -/
theorem mirrorReversesBits : Obligations.MirrorReversesBits := by
  refine ⟨codedR (fun _ _ _ => rfl) fun _ _ => rfl, fun cc d s hc => ⟨_, exec_mirrorR d hc, ?_⟩⟩
  simp only [State.drawn_reg, aluReg_dest]
  exact ⟨fun k hk => mirror8_bit _ hk, aluReg_rest (fun a => (mirror8 a, anyFlags s.draws)) d s⟩

theorem mirror8_mirror8 (a : Byte) : mirror8 (mirror8 a) = a := by
  apply BitVec.eq_of_getLsbD_eq
  intro k hk
  have hback : 7 - (7 - k) = k := by omega
  rw [mirror8_bit _ hk, mirror8_bit a (by omega), hback]

/-- Settles O50: `mirror8` and the complement undo themselves. -/
theorem mirrorAndNotAreTheirOwnInverses : Obligations.MirrorAndNotAreTheirOwnInverses := by
  intro d s
  refine ⟨⟨_, _, exec_mirrorR d rfl, exec_mirrorR d rfl, ?_⟩, ⟨_, _, exec_notR d rfl, exec_notR d rfl, ?_⟩⟩
  · simp [mirror8_mirror8]
  · simp

/-! ### Instructions against each other -/

/-- `keepCarry` is all in which the one-register form differs from the form with an immediate. -/
theorem aluReg_keepCarry (f : Byte → Byte → Byte × Flags) (d : Reg) (v : Byte) (s : State) :
    aluReg (fun a => ((f a v).1, keepCarry s.flags (f a v).2)) d s =
      { aluRegImm f d v s with flags := { (aluRegImm f d v s).flags with cf := s.flags.cf } } := by
  cases d <;> rfl

/-- Settles O47: `aluReg_keepCarry` for `add8` and `sub8`. -/
theorem incrementIsAddOneButCarry : Obligations.IncrementIsAddOneButCarry := fun _ d s hc =>
  ⟨⟨_, _, exec_incR d hc, exec_addRI d 1#8 hc, aluReg_keepCarry add8 d 1#8 s⟩,
    ⟨_, _, exec_decR d hc, exec_subRI d 1#8 hc, aluReg_keepCarry sub8 d 1#8 s⟩⟩

/-- Settles O48: both are `sub8` of 0 and the register. -/
theorem negateIsSubtractFromZero : Obligations.NegateIsSubtractFromZero := by
  intro cc d r s hc _ hzero
  refine ⟨_, _, exec_negR d hc, exec_subRR r d hc, ?_, ?_⟩
  · rw [aluRegReg_dest, aluReg_dest, hzero]
  · rw [aluRegReg_flags, aluReg_flags, hzero]

/-- Putting the destination back takes away all that a form with a destination does beside the one without. -/
theorem compareRegReg_eq (f : Byte → Byte → Byte × Flags) (d r : Reg) (s : State) :
    compareRegReg f d r s = (aluRegReg f d r s).setReg d (s.reg d) := by
  cases d <;> rfl

theorem compareRegImm_eq (f : Byte → Byte → Byte × Flags) (d : Reg) (v : Byte) (s : State) :
    compareRegImm f d v s = (aluRegImm f d v s).setReg d (s.reg d) := by
  cases d <;> rfl

theorem State.drawn_setReg (s : State) (d : Reg) (v : Byte) : s.drawn.setReg d v = (s.setReg d v).drawn := by
  cases d <;> rfl

/-- Settles O49: `compareRegReg_eq` and `compareRegImm_eq` for `sub8` and `logic8 .and`. -/
theorem compareAndTestStoreNothing : Obligations.CompareAndTestStoreNothing := by
  intro cc d r v s hc
  refine ⟨⟨_, _, exec_cmpRR d r hc, exec_subRR d r hc, compareRegReg_eq sub8 d r s⟩,
    ⟨_, _, exec_cmpRI d v hc, exec_subRI d v hc, compareRegImm_eq sub8 d v s⟩,
    ⟨_, _, exec_testRR d r hc, exec_andRR d r hc, ?_⟩, ⟨_, _, exec_testRI d v hc, exec_andRI d v hc, ?_⟩⟩
  · rw [State.drawn_setReg, compareRegReg_eq]
  · rw [State.drawn_setReg, compareRegImm_eq]

end Sys2Proof.Machine
